-- ==== Sys2Proof/Word.lean ====
section
/-! DEFINITION. The widths of the wire: a byte, and the two- and four-byte fields of R202. -/

namespace Sys2Proof

/-- One byte on a port or a lane line. -/
abbrev Byte := BitVec 8
/-- A two-byte field (R202). -/
abbrev Half := BitVec 16
/-- A four-byte field (R202), and the two counters that wrap at 32 bits (R3, R143). -/
abbrev Word := BitVec 32

end Sys2Proof
end

