-- ==== Sys2Proof/Machine/Bytes.lean ====
section
/-! DEFINITION. Bytes of the wire: fields most significant byte first (R198, R202), two's complement numbers, and the
two cyclic redundancy checks (R61, R187). -/

namespace Sys2Proof.Machine

/-- One byte holding a number. -/
def be8 (n : Nat) : List Byte := [BitVec.ofNat 8 n]

/-- Two bytes, most significant first (R202). -/
def be16 (n : Nat) : List Byte := [BitVec.ofNat 8 (n / 256), BitVec.ofNat 8 n]

/-- Four bytes, most significant first (R202). -/
def be32 (n : Nat) : List Byte :=
  [BitVec.ofNat 8 (n / 16777216), BitVec.ofNat 8 (n / 65536), BitVec.ofNat 8 (n / 256), BitVec.ofNat 8 n]

/-- The number two bytes hold. -/
def nat16 (a b : Byte) : Nat := a.toNat * 256 + b.toNat

/-- The number four bytes hold. -/
def nat32 (a b c d : Byte) : Nat := ((a.toNat * 256 + b.toNat) * 256 + c.toNat) * 256 + d.toNat

/-- The two-byte field two bytes hold. -/
def half (a b : Byte) : Half := BitVec.ofNat 16 (nat16 a b)

/-- The four-byte field four bytes hold. -/
def word (a b c d : Byte) : Word := BitVec.ofNat 32 (nat32 a b c d)

/-- One byte for an item that is yes or no, on or off, set or clear (R202). -/
def flagByte (b : Bool) : List Byte := be8 (if b then 1 else 0)

/-- A set of up to eight yes/no entries in one byte, entry i in bit i (R202). -/
def bitSet (l : List Bool) : Nat :=
  match l with
  | [] => 0
  | b :: t => (if b then 1 else 0) + 2 * bitSet t

/-- A signed number in two bytes, two's complement (R202). -/
def signed16 (v : Int) : List Byte := be16 (BitVec.ofInt 16 v).toNat

/-- A signed number in one byte, two's complement (R202). -/
def signed8 (v : Int) : List Byte := be8 (BitVec.ofInt 8 v).toNat

/-- One bit of a CRC, most significant bit first: shift left and reduce. R187 gives this order for the CRC-16; for the
CRC-8 it is a DESIGN CHOICE, log entry 39. -/
def crcShift {w : Nat} (poly c : BitVec w) : BitVec w :=
  if c.msb then (c <<< 1) ^^^ poly else c <<< 1

/-- `n` bits of a CRC. -/
def crcBits {w : Nat} (poly : BitVec w) : Nat → BitVec w → BitVec w
  | 0, c => c
  | n + 1, c => crcBits poly n (crcShift poly c)

/-- The CRC-16 of a chain frame (R187): x^16 + x^12 + x^5 + 1, initial value all ones, no final inversion, each byte
most significant bit first. -/
def crc16 (bytes : List Byte) : BitVec 16 :=
  bytes.foldl (fun c b => crcBits 0x1021#16 8 (c ^^^ (b ++ 0#8))) 0xFFFF#16

/-- The CRC-8 of a lane frame (R61): x^8 + x^2 + x + 1, initial value 0. R61 gives no bit order and says nothing of an
inversion: as R187 has it for the CRC-16, each byte is taken most significant bit first and nothing is inverted (DESIGN
CHOICE, log entry 39). -/
def crc8 (bytes : List Byte) : Byte :=
  bytes.foldl (fun c b => crcBits 0x07#8 8 (c ^^^ b)) 0#8

/-- A set of two bytes, the two bytes of the CRC-16, most significant first (R186). -/
def crc16Bytes (bytes : List Byte) : List Byte := be16 (crc16 bytes).toNat

end Sys2Proof.Machine
end

