-- ==== Sys2Proof/Config.lean ====
section
/-! DEFINITION. What is fixed in silicon (the capacities of the introduction), and the FREE VALUES: constants without
a body for what the spec leaves open, so that nothing can be proved about which value they take. -/

namespace Sys2Proof.Config

/-- Lanes, numbered 0 to 15. -/
abbrev laneCount : Nat := 16
/-- Bell outputs, numbered 0 to 3. -/
abbrev bellCount : Nat := 4
/-- Worker records, index 0 to 4095. -/
abbrev workerCount : Nat := 4096
/-- Badge map entries. -/
abbrev badgeCap : Nat := 8192
/-- Journal entries. -/
abbrev journalCap : Nat := 2048
/-- Request buffer places. -/
abbrev requestCap : Nat := 2
/-- Upward transmit queue places. -/
abbrev upwardCap : Nat := 8
/-- Places of each forwarding buffer (R189, R190). -/
abbrev forwardCap : Nat := 2
/-- The last day number, that of the largest gate time (Conventions). -/
abbrev lastDay : Nat := 49710
/-- The largest gate time, 4,294,967,295. -/
abbrev maxTime : Nat := 4294967295
/-- The largest value of a 16-bit count that saturates. -/
abbrev maxCount : Nat := 65535

/-- FREE VALUE (log entry 5). The four bytes that stand for a time that is no gate time: a rounded time or an instance
bound below 0 or above 4,294,967,295. The spec gives such a field only gate times. -/
opaque timeField : Int → Word

/-- FREE VALUE (log entry 6). Whether the live notice of a stored entry is offered before the ALERTs of the journal
conditions that the same store changes. The spec states no order between the two. -/
opaque noticeFirst : Word → Bool

/-- FREE VALUE (log entry 7). The order in which ALERT frames are offered when one action changes several conditions:
by ascending rank. The spec states no order. -/
opaque alertRank : Word → Nat → Nat

/-- FREE VALUE (log entry 8). Whether the upward transmitter takes its own queue first when both sources hold a frame
and it has taken none since the start. R190 decides by the source taken last. -/
opaque ownQueueFirst : Word → Bool

/-- FREE VALUE (log entry 9). Whether a night window that spans midnight is counted for the day before day 0 (R115
asks for the window of "the day less one", and R21 gives windows to day numbers, which begin at 0). -/
opaque nightBeforeDayZero : Bool

/-- FREE VALUE (log entry 9). Whether a night window is counted for a day after day 49,710, the last day number, into
which an AUTO-CLOSE to an instance end above 4,294,967,295 can pay. R21 gives windows to day numbers alone. -/
opaque nightPastLastDay : Bool

/-- FREE VALUE (log entry 10). The minutes bytes of an empty tally in a WORKER READ reply (R203 gives an empty tally's
key, 65,535, and no value of its minutes). -/
opaque emptyTallyMinutes : Half

/-- FREE VALUE (log entry 38). Of an in time and an earlier raw out time: whether the gross of their NEGATIVE pairing is
0 although its rounded times give a positive difference. R112 gives the gross then both as the difference and as 0. -/
opaque negativeIsZero : Nat → Nat → Bool

end Sys2Proof.Config
end

