-- ==== Sys2Proof/Syntax.lean ====
section
/-! DEFINITION. The commands of the BG1604: one constructor of `Instr` for each row of
spec/opcode_table.json. A request row carries the request's fields at the widths of R203, so that every value a
server can send (an index out of range, an enumeration byte outside its set) is an operand; an event row carries what
the outside world supplies with the event (bytes on a port, a head's report, the level of a pin). -/

namespace Sys2Proof

/-- A request as the request buffer holds it (R186, R191): whether it came to address 31, its kind, its tag and its
payload bytes. -/
structure Request where
  broadcast : Bool
  kind : Byte
  tag : Byte
  payload : List Byte
deriving DecidableEq, Repr

/-- The direction key of a head's PUNCH reply (R61): IN 0, OUT 1, NONE 2. -/
inductive HeadKey where
  | keyIn | keyOut | keyNone
deriving DecidableEq, Repr

/-- The commands, in the order of spec/opcode_table.json. -/
inductive Instr where
  /-- DESCRIBE (R197). -/
  | describe (tag : Byte)
  /-- STATUS READ (R196) with its clear option. -/
  | statusRead (tag clear : Byte)
  /-- ALERT MASK (R195): the eight mask entries and the global enable. -/
  | alertMask (tag mask enable : Byte)
  /-- TABLE WRITE (R199): identifier, first index, count minus one, and the record bytes. -/
  | tableWrite (tag table first count : Byte) (records : List Byte)
  /-- TABLE READ (R200). -/
  | tableRead (tag table first count : Byte)
  /-- RESTART (R207). -/
  | restart (tag : Byte)
  /-- TIME SET (R8), addressed or broadcast (R12). -/
  | timeSet (broadcast : Bool) (tag : Byte) (time : Word) (offset : Byte)
  /-- TIME SLEW (R10), addressed or broadcast (R12). The amount is in two's complement. -/
  | timeSlew (broadcast : Bool) (tag : Byte) (amount : Half)
  /-- TIME READ (R11). -/
  | timeRead (tag : Byte)
  /-- WORKER SET (R45, R46). -/
  | workerSet (tag : Byte) (index : Half) (status crew rateClass flags : Byte)
  /-- WORKER FREE (R47). -/
  | workerFree (tag : Byte) (index : Half)
  /-- PRESENCE SET (R48). -/
  | presenceSet (tag : Byte) (index : Half) (presence : Byte)
  /-- WORKER READ (R49). -/
  | workerRead (tag : Byte) (first : Half) (count : Byte)
  /-- BADGE ADD (R51). -/
  | badgeAdd (tag : Byte) (code : Word) (index : Half)
  /-- BADGE REMOVE (R52). -/
  | badgeRemove (tag : Byte) (code : Word)
  /-- BADGE FIND (R54). -/
  | badgeFind (tag : Byte) (code : Word)
  /-- BADGE READ (R54). -/
  | badgeRead (tag : Byte) (first : Half) (count : Byte)
  /-- LANE COMMAND with command NORMAL (R72). -/
  | laneCommandNormal (tag lane : Byte)
  /-- LANE COMMAND with command LOCKED (R72). -/
  | laneCommandLocked (tag lane : Byte)
  /-- LANE COMMAND with command UNLOCKED (R72). -/
  | laneCommandUnlocked (tag lane : Byte)
  /-- LANE COMMAND with command PULSE (R73). -/
  | laneCommandPulse (tag lane : Byte)
  /-- LANE COUNTERS with operation LATCH (R80). -/
  | laneCountersLatch (tag selector : Byte)
  /-- LANE COUNTERS with operation READ (R80). -/
  | laneCountersRead (tag selector : Byte)
  /-- LANE COUNTERS with operation RESET (R80). -/
  | laneCountersReset (tag selector : Byte)
  /-- TOTALS LATCH (R122). -/
  | totalsLatch (tag : Byte) (selector : Half)
  /-- TOTALS READ (R123). -/
  | totalsRead (tag : Byte) (first : Half) (count : Byte)
  /-- CLOSED READ (R124). -/
  | closedRead (tag : Byte) (first : Half) (count : Byte)
  /-- PERIOD CLOSE (R127). -/
  | periodClose (tag : Byte) (crews : Half)
  /-- CLOSE CANCEL (R128). -/
  | closeCancel (tag : Byte)
  /-- CLOSE STATUS (R138). -/
  | closeStatus (tag : Byte)
  /-- JOURNAL READ (R152). -/
  | journalRead (tag count : Byte)
  /-- JOURNAL TRIM (R153). -/
  | journalTrim (tag : Byte) (count : Half)
  /-- JOURNAL STATUS (R154). -/
  | journalStatus (tag clear : Byte)
  /-- BELL RING (R165), addressed or broadcast. -/
  | bellRing (broadcast : Bool) (tag outputs pattern priority : Byte)
  /-- BELL SILENCE (R166). -/
  | bellSilence (tag outputs : Byte)
  /-- BELL STATUS (R167). -/
  | bellStatus (tag : Byte)
  /-- EVACUATE (R180), addressed or broadcast. -/
  | evacuate (broadcast : Bool) (tag : Byte)
  /-- EVACUATION CLEAR (R181). -/
  | evacuationClear (tag : Byte)
  /-- MUSTER READ (R183). -/
  | musterRead (tag : Byte) (first : Half) (count : Byte)
  /-- MUSTER LIST (R184). -/
  | musterList (tag : Byte) (start : Half)
  /-- A request that no other row takes (R192): an unknown kind, a wrong length, or a LANE COMMAND or LANE COUNTERS
  whose command or operation byte is outside its set (R72, R80). -/
  | unknownRequest (request : Request)
  /-- Bytes of a complete frame on the upward port (R187, R189). -/
  | downwardFrameReceived (bytes : List Byte)
  /-- Bytes of a complete frame on the downward port (R187, R190). -/
  | upwardFrameReceived (bytes : List Byte)
  /-- The downward port sends the oldest frame of the downward forwarding buffer (R189). -/
  | downwardForwardSend
  /-- The free upward transmitter takes its next frame (R190). -/
  | upwardTransmit
  /-- The RESTART reply has left the upward port (R207). -/
  | restartReplySent
  /-- The millisecond divider reaches 100 (R3): a 100 ms tick, with FIREn sampled active (low) or not and EVCL pulled
  active by another part of the gate or not (R172). -/
  | tick100ms (fire chain : Bool)
  /-- The second tick (R5). -/
  | secondTick
  /-- A segment timer of bell output `output` reaches its duration (R164). -/
  | segmentEnd (output : Nat)
  /-- The poll timer of a lane expires (R60). -/
  | pollTimerExpiry (lane : Nat)
  /-- A good EMPTY reply (R62). -/
  | headEmpty (lane : Nat)
  /-- A good PUNCH reply: sequence bit, badge code, direction key (R61, R65). -/
  | headPunch (lane : Nat) (bit : Bool) (code : Word) (key : HeadKey)
  /-- A good DOOR OPEN reply (R68). -/
  | headDoorOpen (lane : Nat) (bit : Bool)
  /-- A good DOOR CLOSED reply (R69). -/
  | headDoorClosed (lane : Nat) (bit : Bool)
  /-- A good TAMPER ON reply (R71). -/
  | headTamperOn (lane : Nat) (bit : Bool)
  /-- A good TAMPER OFF reply (R71). -/
  | headTamperOff (lane : Nat) (bit : Bool)
  /-- A bad reply (R61). -/
  | laneReplyBad (lane : Nat)
  /-- The reply window closes without a complete reply (R63). -/
  | laneReplyMissed (lane : Nat)
  /-- The release timer of a lane expires (R67). -/
  | releaseTimerExpiry (lane : Nat)
  /-- The held timer of a lane expires (R70). -/
  | heldTimerExpiry (lane : Nat)
  /-- The gather timer expires (R129, R130). -/
  | gatherTimerExpiry
  /-- The walk takes one record (R131). -/
  | walkStep
  /-- The filtered fire level changes to ACTIVE (R172, R173). -/
  | fireActive
  /-- The filtered fire level changes to INACTIVE (R172). -/
  | fireInactive
  /-- The filtered chain level changes to ACTIVE (R172, R173). -/
  | chainLevelActive
  /-- The filtered chain level changes to INACTIVE (R172, R174). -/
  | chainLevelInactive
  /-- Main power arrives (R205). -/
  | powerUp
  /-- Main power fails (R205). -/
  | mainPowerLost
  /-- RSTn goes active (R205). -/
  | resetInputActive
  /-- The start completes (R205), with RSTn inactive, the first samples of FIREn and EVCL (R172) and the strap pins
  ADS0 to ADS4 (R188). -/
  | startComplete (fire chain : Bool) (strap : BitVec 5)
  /-- The backup supply fails while main power is absent (R205). -/
  | retainedDomainLost
deriving DecidableEq, Repr

end Sys2Proof
end

