-- ==== Sys2Proof/Machine/State.lean ====
section
/-! DEFINITION. The state of the BG1604: plain data holding every item the spec gives the part, block by block, the
queue of waiting commands, the reasons a step can stop, and the state right after a cold start. -/

namespace Sys2Proof.Machine

/-- Faults: there is none. No rule of the spec stops the part, and every command has an effect in every state. -/
inductive Fault where
deriving DecidableEq, Repr

/-- Refusals. -/
inductive Refusal where
  /-- Raised by `exec` alone, for a row that has no meaning yet. Safe: a run stops where the hardware goes on. -/
  | notModelled (mnemonic : String)
deriving DecidableEq, Repr

/-- A numbered table with 4096, 32, 16 ... entries, held as the list of the entries that differ from the table's
cold-start entry, index rising: equal tables are equal lists. Read and written by `Table.get` and `Table.set`. -/
abbrev Table (α : Type) := List (Nat × α)

/-- A time field that may be absent (none, NEVER), the UNSET flag, or a gate time (R202). -/
inductive Stamp where
  | never
  | unset
  | time (t : Nat)
deriving DecidableEq, Repr

/-! ## Gate Clock (section 1.1) -/

/-- The clock state. -/
structure Clock where
  /-- Gate time, 0 to 4,294,967,295 (R1). -/
  gateTime : Nat
  /-- Validity: true is SET (R1). -/
  valid : Bool
  /-- Weekday offset, 0 to 6 (R2). -/
  weekdayOffset : Nat
  /-- Slew remaining, −3600 to +3600 (R6). -/
  slew : Int
  /-- Slew phase, 0 to 9 (R6). -/
  slewPhase : Nat
  /-- Second divider, 0 to 9 (R4). -/
  secondDivider : Nat
  /-- Millisecond divider, 0 to 99 (R3). -/
  msDivider : Nat
  /-- Tick count, wrapping (R3). -/
  tickCount : Word
  /-- THE MODEL'S OWN: second ticks reached by TICK_100MS (R4) whose SECOND_TICK step has not been taken. -/
  secondsDue : Nat
deriving DecidableEq, Repr

/-! ## Shift Calendar (chapter 2) -/

/-- A SHIFT record (section 2.1). -/
structure Shift where
  start : Nat
  stop : Nat
  entryOpen : Nat
  earlyGrace : Nat
  lateGrace : Nat
  exitGrace : Nat
  quantum : Nat
  break_ : Nat
  threshold : Nat
  outWindow : Nat
deriving DecidableEq, Repr

/-- A crew's passback mode (section 2.2). -/
inductive Passback where
  | hard | soft
deriving DecidableEq, Repr

/-- A CREW record (section 2.2); a rota day is a shift index or, for OFF, none. -/
structure Crew where
  length : Nat
  anchor : Nat
  rota : List (Option Nat)
  dr : Nat
  dl : Nat
  wr : Nat
  passback : Passback
deriving DecidableEq, Repr

/-- A RATE record (section 2.3). -/
structure Rate where
  base : Nat
  m1 : Nat
  m2 : Nat
  premium : Nat
deriving DecidableEq, Repr

/-- An occurrence of a shift on a day (R23): what a released punch holds and an attendance captures. -/
structure ShiftDay where
  shift : Nat
  day : Nat
  start : Nat
  stop : Nat
deriving DecidableEq, Repr

/-! ## Worker Table (chapter 3) -/

/-- Status (R35). -/
inductive Status where
  | free | active | suspended
deriving DecidableEq, Repr

/-- Presence (R37). -/
inductive Presence where
  | outside | inside | unknown
deriving DecidableEq, Repr

/-- Muster mark (R44). -/
inductive Mark where
  | none | unaccounted | accounted
deriving DecidableEq, Repr

/-- The scheduled part of an open attendance (section 3.3). -/
structure Scheduled where
  shift : Nat
  start : Nat
  stop : Nat
deriving DecidableEq, Repr

/-- An open attendance (section 3.3). -/
structure Attendance where
  inTime : Nat
  scheduled : Option Scheduled
  dayKey : Nat
  deadline : Nat
  carried : Bool
  carriedGross : Nat
  breakTaken : Bool
deriving DecidableEq, Repr

/-- A day or week tally that is not empty (R41). -/
structure Tally where
  key : Nat
  minutes : Nat
deriving DecidableEq, Repr

/-- The last punch (R42). -/
structure LastPunch where
  lane : Nat
  tick : Word
deriving DecidableEq, Repr

/-- The six counts of a bank (R43). -/
structure Bank where
  regular : Nat
  ot1 : Nat
  ot2 : Nat
  night : Nat
  pay : Nat
  pairings : Nat
deriving DecidableEq, Repr

/-- A worker record (section 3.1). -/
structure Worker where
  status : Status
  crew : Nat
  rateClass : Nat
  anytime : Bool
  payhold : Bool
  presence : Presence
  attendance : Option Attendance
  dayTally : Option Tally
  weekTally : Option Tally
  lastPunch : Option LastPunch
  live : Bank
  closed : Bank
  closedGen : Byte
  closedAt : Nat
  closeMark : Byte
  muster : Mark
deriving DecidableEq, Repr

/-- An entry of the holding bank (R121). -/
structure Holding where
  bank : Bank
  stamp : Stamp
deriving DecidableEq, Repr

/-! ## Lanes (chapter 4) -/

/-- The direction of a punch (R85). -/
inductive Direction where
  | inward | outward
deriving DecidableEq, Repr

/-- The direction field of a LANE record (section 4.1). -/
inductive LaneDirection where
  | onlyIn | onlyOut | dual
deriving DecidableEq, Repr

/-- Fail policy (section 4.1). -/
inductive FailPolicy where
  | secure | opens
deriving DecidableEq, Repr

/-- A LANE record (section 4.1). -/
structure LaneRecord where
  enabled : Bool
  direction : LaneDirection
  fail : FailPolicy
  releaseTime : Nat
  heldTime : Nat
  window : Nat
  crewMask : Half
deriving DecidableEq, Repr

/-- Lane state (chapter 4). -/
inductive LaneState where
  | disabled | idle | released | opened | lost
deriving DecidableEq, Repr

/-- Lane mode (R72). -/
inductive LaneMode where
  | normal | locked | unlocked
deriving DecidableEq, Repr

/-- A soft flag (R89). -/
inductive Soft where
  | softPassback | passbackOut
deriving DecidableEq, Repr

/-- A released punch (R93). -/
structure ReleasedPunch where
  code : Nat
  worker : Nat
  direction : Direction
  verdictTime : Option Nat
  held : Option ShiftDay
  soft : Option Soft
deriving DecidableEq, Repr

/-- One yes/no item for each of the four lane conditions (R77). -/
structure LaneConditions where
  lost : Bool
  forced : Bool
  held : Bool
  tamper : Bool
deriving DecidableEq, Repr

/-- A verdict, or BUSY, as a VERDICT frame carries it (R61, R66). -/
inductive Verdict where
  | accept | malformed | laneLocked | unknownBadge | suspended | notThisLane | journalFull | passback | outOfShift
  | ignored | musterOk | musterUnknown | busy
deriving DecidableEq, Repr

/-- What the part last sent on a lane's line (R61). -/
inductive LaneFrame where
  /-- POLL with its acknowledgment: none, or the bit. -/
  | poll (ack : Option Bool)
  /-- VERDICT with its result and display code. -/
  | verdict (result : Verdict) (display : Nat)
deriving DecidableEq, Repr

/-- A lane's running state (chapter 4, R81). -/
structure Lane where
  state : LaneState
  mode : LaneMode
  /-- Remaining 100 ms ticks of the release timer; none when stopped (R67). -/
  releaseTimer : Option Nat
  /-- Remaining 100 ms ticks of the held timer; none when stopped (R70). -/
  heldTimer : Option Nat
  punch : Option ReleasedPunch
  missed : Nat
  good : Nat
  lastBit : Option Bool
  conditions : LaneConditions
  changes : LaneConditions
  lineErrors : Nat
  refusals : Nat
  lineErrorsCopy : Nat
  refusalsCopy : Nat
  /-- Remaining milliseconds of the poll timer; none while an exchange is open or the lane is not polled (R60). -/
  pollTimer : Option Nat
  /-- Remaining milliseconds of the open reply window; none when no window is open (R60). -/
  replyWindow : Option Nat
  /-- The last frame the part sent on the lane's line. -/
  line : Option LaneFrame
deriving DecidableEq, Repr

/-! ## Punch Journal (chapter 8) -/

/-- The refusals of R66, the reasons of R144. -/
inductive Reason where
  | malformed | laneLocked | unknownBadge | suspended | notThisLane | journalFull | passback | outOfShift
deriving DecidableEq, Repr

/-- The outcome of a PUNCH entry (R144). -/
inductive PunchOutcome where
  | admitted | unused | rejected
deriving DecidableEq, Repr

/-- The flags of a PUNCH entry (R101, R144). -/
structure PunchFlags where
  freeLane : Bool
  softPassback : Bool
  passbackOut : Bool
  reentry : Bool
  unscheduled : Bool
  noAttendance : Bool
  orphanOut : Bool
deriving DecidableEq, Repr

/-- The flags of a PAYLINE entry (R120, R145). -/
structure PayFlags where
  carried : Bool
  split : Bool
  missedOut : Bool
  long : Bool
  negative : Bool
  saturated : Bool
  unscheduled : Bool
  reentry : Bool
deriving DecidableEq, Repr

/-- The result of a MUSTER entry (R178). -/
inductive MusterResult where
  | accounted | already | notInRoll | unknown
deriving DecidableEq, Repr

/-- The event of a DOOR entry (R146). -/
inductive DoorEvent where
  | forced | held | manualPulse
deriving DecidableEq, Repr

/-- One yes/no entry for each cause of evacuation (R173). -/
structure Causes where
  fire : Bool
  command : Bool
  chain : Bool
deriving DecidableEq, Repr

/-- The fields of an entry after its common part (R144 to R146). -/
inductive EntryBody where
  | punch (verdictTime : Stamp) (lane code : Nat) (worker : Option Nat) (direction : Direction)
      (outcome : PunchOutcome) (reason : Option Reason) (flags : PunchFlags)
  | payline (worker : Nat) (roundedIn roundedOut : Int) (regular ot1 ot2 night pay : Nat) (flags : PayFlags)
  | muster (lane code : Nat) (worker : Option Nat) (result : MusterResult)
  | door (lane : Nat) (event : DoorEvent)
  | override_ (worker : Nat) (before after : Presence) (voided : Bool)
  | evacStart (causes : Causes)
  | evacEnd
  | clock (before : Option Nat) (after : Nat)
  | closeStart (gen : Byte) (crews : Half) (tClose : Nat)
  | closeDone (gen : Byte) (crews : Half) (tClose closed skipped split : Nat)
deriving DecidableEq, Repr

/-- A journal entry: its number, its time (none is the UNSET flag) and its body (R143). -/
structure Entry where
  number : Word
  time : Option Nat
  body : EntryBody
deriving DecidableEq, Repr

/-- The journal (R142): the entries held, oldest first, the next entry number and the overflow count. -/
structure Journal where
  entries : List Entry
  next : Word
  overflow : Nat
deriving DecidableEq, Repr

/-! ## Bells (chapter 9) -/

/-- Bell schedule kind (section 9.1). -/
inductive BellKind where
  | clock | shift
deriving DecidableEq, Repr

/-- Bell anchor (section 9.1). -/
inductive Anchor where
  | start | stop
deriving DecidableEq, Repr

/-- A BELL SCHEDULE entry (section 9.1). -/
structure BellEntry where
  inUse : Bool
  kind : BellKind
  minute : Nat
  weekdays : Byte
  shift : Nat
  anchor : Anchor
  offset : Int
  outputs : Byte
  pattern : Nat
  priority : Nat
deriving DecidableEq, Repr

/-- A segment of a pattern: its level (true is ON) and duration in 100 ms units (section 9.2). -/
structure Segment where
  level : Bool
  duration : Nat
deriving DecidableEq, Repr

/-- A BELL PATTERN: eight segments and a repeat count (section 9.2). -/
structure Pattern where
  segments : List Segment
  repeats : Nat
deriving DecidableEq, Repr

/-- Passes left (section 9.5). -/
inductive Passes where
  | finite (n : Nat)
  | endless
deriving DecidableEq, Repr

/-- An active cadence (section 9.5). The timer is none for the tone of an empty evacuation pattern alone (R168). -/
structure Cadence where
  pattern : Nat
  copy : Pattern
  priority : Nat
  segment : Nat
  passes : Passes
  timer : Option Nat
deriving DecidableEq, Repr

/-- A pending request (section 9.5). -/
structure BellRequest where
  pattern : Nat
  priority : Nat
deriving DecidableEq, Repr

/-- The arbiter of a bell output (section 9.5). -/
structure Arbiter where
  active : Option Cadence
  waiting : Option BellRequest
  silenced : Bool
deriving DecidableEq, Repr

/-! ## Period Close (section 7.2) -/

/-- The close phase (R126). -/
inductive ClosePhase where
  | idle | gathering | walking | suspended
deriving DecidableEq, Repr

/-- The last result (R126). -/
inductive CloseResult where
  | none | complete | clockUnset
deriving DecidableEq, Repr

/-- The close state record (section 7.2). -/
structure CloseState where
  phase : ClosePhase
  crews : Half
  gen : Byte
  tClose : Nat
  walkIndex : Nat
  closed : Nat
  skipped : Nat
  split : Nat
  lastResult : CloseResult
  /-- Remaining 100 ms ticks of the gather timer; none when stopped. -/
  gatherTimer : Option Nat
deriving DecidableEq, Repr

/-! ## Evacuation Control (section 10.1) -/

/-- The evacuation state. The chain-line drive follows the causes (R174): `Evac.drive`. -/
structure Evac where
  evacuating : Bool
  causes : Causes
  /-- Chain sensing: true is ARMED. -/
  armed : Bool
  /-- Filtered fire level: true is ACTIVE. -/
  fireLevel : Bool
  /-- The latest two samples of FIREn, true for active (low): latest, then the one before (R172). -/
  fireSamples : Bool × Bool
  /-- Filtered chain level: true is ACTIVE. -/
  chainLevel : Bool
  /-- The latest two samples of EVCL (R172). -/
  chainSamples : Bool × Bool
  snapshot : Stamp
  rollSize : Nat
  unaccounted : Nat
deriving DecidableEq, Repr

/-! ## Chain Port (chapter 11) -/

/-- The PART record (R201). -/
structure PartRecord where
  /-- Journal policy: true is WRAP. -/
  wrap : Bool
  highMark : Nat
  liveNotices : Bool
  gatherWindow : Nat
  duplicateWindow : Nat
  nightStart : Nat
  nightEnd : Nat
  weekStart : Nat
  evacPattern : Nat
  alertEnable : Bool
  pollInterval : Nat
  extendedLoss : Bool
deriving DecidableEq, Repr

/-- The change flags of the conditions that belong to no lane, and CLOSE_DONE (R194). -/
structure PartChanges where
  journalHigh : Bool
  journalFull : Bool
  evacuating : Bool
  closeDone : Bool
deriving DecidableEq, Repr

/-- A frame waiting in the upward queue: what is fixed when it enters. The address and the digest are written when it
is sent (R193). -/
structure UpFrame where
  kind : Byte
  tag : Byte
  payload : List Byte
deriving DecidableEq, Repr

/-- A source of the upward transmitter (R190). -/
inductive UpSource where
  | own | forward
deriving DecidableEq, Repr

/-- The Chain Port. -/
structure Link where
  /-- The part's own address, 0 to 30 (R188). -/
  address : Nat
  /-- The request buffer, oldest first (R191). -/
  requests : List Request
  /-- The upward transmit queue, oldest first (R193). -/
  upQueue : List UpFrame
  /-- The upward forwarding buffer: whole frames, oldest first (R190). -/
  upForward : List (List Byte)
  /-- The downward forwarding buffer (R189). -/
  downForward : List (List Byte)
  /-- The source the upward transmitter took last; none since the start (R190). -/
  lastSource : Option UpSource
  frameErrors : Nat
  requestDrops : Nat
  forwardDrops : Nat
  alertMask : Byte
  /-- A RESTART has been taken: the number of frames of the upward queue up to and with its reply that have not been
  taken by the transmitter (R207). -/
  restart : Option Nat
  /-- What the upward port's receiver holds of a frame whose last byte has not arrived: its bytes from the marker on;
  empty while it looks for a marker (R187). -/
  upPartial : List Byte
  /-- The same of the downward port's receiver (R187). -/
  downPartial : List Byte
  /-- The last frame sent on the upward port. -/
  upLine : Option (List Byte)
  /-- The last frame sent on the downward port. -/
  downLine : Option (List Byte)
deriving DecidableEq, Repr

/-! ## Starts (section 11.9) -/

/-- The kind of a start (R196). -/
inductive StartKind where
  | cold | warmReset | warmMain | warmRestart
deriving DecidableEq, Repr

/-- Power, reset and starts (R205). -/
structure Power where
  /-- Main power is present. -/
  mainPower : Bool
  /-- RSTn has gone active and not been released. -/
  resetActive : Bool
  /-- BKOK: the retained domain is intact. -/
  retained : Bool
  /-- The start that is going on, if any. No block runs while one is (R205). -/
  starting : Option StartKind
  /-- The kind of the latest start (R196). -/
  lastStart : StartKind
deriving DecidableEq, Repr

/-- The state of the part. -/
structure State where
  power : Power
  clock : Clock
  shifts : Table Shift
  crews : Table Crew
  rates : Table Rate
  part : PartRecord
  workers : Table Worker
  insideCount : Nat
  /-- The badge map: badge code and worker index, codes ascending (R50). -/
  badges : List (Nat × Nat)
  laneTable : Table LaneRecord
  lanes : Table Lane
  journal : Journal
  schedule : Table BellEntry
  patterns : Table Pattern
  arbiters : Table Arbiter
  evac : Evac
  close : CloseState
  holding : Table Holding
  changes : PartChanges
  link : Link
  /-- THE MODEL'S OWN: the commands that wait, first in first out. -/
  pending : List Instr
deriving DecidableEq, Repr

/-- The clock after a cold start (R13). -/
def Clock.cold : Clock where
  gateTime := 0
  valid := false
  weekdayOffset := 0
  slew := 0
  slewPhase := 0
  secondDivider := 0
  msDivider := 0
  tickCount := 0
  secondsDue := 0

/-- The PART record after a cold start (R201). -/
def PartRecord.cold : PartRecord where
  wrap := false
  highMark := 1536
  liveNotices := false
  gatherWindow := 2
  duplicateWindow := 3
  nightStart := 0
  nightEnd := 0
  weekStart := 0
  evacPattern := 0
  alertEnable := false
  pollInterval := 50
  extendedLoss := false

/-- The empty cause set. -/
def Causes.empty : Causes := ⟨false, false, false⟩

/-- The close state record after a cold start (R140). -/
def CloseState.cold : CloseState where
  phase := .idle
  crews := 0
  gen := 0
  tClose := 0
  walkIndex := 0
  closed := 0
  skipped := 0
  split := 0
  lastResult := .none
  gatherTimer := none

/-- The machine right after a cold start has completed with FIREn and EVCL inactive and the straps at 0 (log entry 3):
R13, R33, R55, R81, R82, R121, R140, R156, R170, R185, R195, R201, R205. -/
def State.reset : State where
  power := { mainPower := true, resetActive := false, retained := true, starting := none, lastStart := .cold }
  clock := Clock.cold
  shifts := []
  crews := []
  rates := []
  part := PartRecord.cold
  workers := []
  insideCount := 0
  badges := []
  laneTable := []
  lanes := []
  journal := { entries := [], next := 0, overflow := 0 }
  schedule := []
  patterns := []
  arbiters := []
  evac :=
    { evacuating := false, causes := Causes.empty, armed := true, fireLevel := false, fireSamples := (false, false),
      chainLevel := false, chainSamples := (false, false), snapshot := .never, rollSize := 0, unaccounted := 0 }
  close := CloseState.cold
  holding := []
  changes := { journalHigh := false, journalFull := false, evacuating := false, closeDone := false }
  link :=
    { address := 0, requests := [], upQueue := [], upForward := [], downForward := [], lastSource := none,
      frameErrors := 0, requestDrops := 0, forwardDrops := 0, alertMask := 255#8, restart := none, upPartial := [],
      downPartial := [], upLine := none, downLine := none }
  pending := []

end Sys2Proof.Machine
end

