-- ==== Sys2Proof/Machine/Ops.lean ====
section
/-! DEFINITION. The named operations over the state: tables, records by index, saturating counts, the present time,
presence with the inside count, and the link's queues. -/

namespace Sys2Proof.Machine

/-! ## Tables -/

/-- Entry `i` of a table whose cold-start entry is `d`. -/
def Table.get {α : Type} (d : α) : Table α → Nat → α
  | [], _ => d
  | (k, v) :: t, i => if k = i then v else Table.get d t i

/-- The table without entry `i`. -/
def Table.erase {α : Type} (t : Table α) (i : Nat) : Table α := t.filter (fun e => e.1 ≠ i)

/-- The table with an entry put before the first larger index. -/
def Table.insert {α : Type} : Table α → Nat → α → Table α
  | [], i, v => [(i, v)]
  | (k, w) :: t, i, v => if i < k then (i, v) :: (k, w) :: t else (k, w) :: Table.insert t i v

/-- The table with entry `i` replaced by `v`; an entry equal to the cold-start entry `d` is not listed. -/
def Table.set {α : Type} [DecidableEq α] (d : α) (t : Table α) (i : Nat) (v : α) : Table α :=
  if v = d then t.erase i else Table.insert (t.erase i) i v

/-- The table with every listed entry changed by `f`. -/
def Table.update {α : Type} [DecidableEq α] (d : α) (f : α → α) (t : Table α) : Table α :=
  (t.map fun e => (e.1, f e.2)).filter fun e => e.2 ≠ d

/-- Whether the indices of a list of entries rise strictly. -/
def Table.rising {α : Type} : Table α → Bool
  | [] => true
  | [_] => true
  | a :: b :: t => decide (a.1 < b.1) && Table.rising (b :: t)

/-- The canonical form of a table: indices rising, no entry equal to the cold-start entry. -/
def Table.wf {α : Type} [DecidableEq α] (d : α) (t : Table α) : Bool :=
  Table.rising t && t.all fun e => decide (e.2 ≠ d)

/-! ## Cold-start entries -/

/-- A SHIFT record after a cold start (R33). -/
def Shift.cold : Shift := ⟨0, 0, 0, 0, 0, 0, 15, 0, 0, 0⟩

/-- A CREW record after a cold start (R33). -/
def Crew.cold : Crew := ⟨1, 0, List.replicate 28 none, 0, 0, 0, .hard⟩

/-- A RATE record after a cold start (R33). -/
def Rate.cold : Rate := ⟨0, 100, 100, 0⟩

/-- A bank with every count 0. -/
def Bank.zero : Bank := ⟨0, 0, 0, 0, 0, 0⟩

/-- A zeroed worker record (R35). -/
def Worker.zeroed : Worker where
  status := .free
  crew := 0
  rateClass := 0
  anytime := false
  payhold := false
  presence := .outside
  attendance := none
  dayTally := none
  weekTally := none
  lastPunch := none
  live := Bank.zero
  closed := Bank.zero
  closedGen := 0
  closedAt := 0
  closeMark := 0
  muster := .none

/-- A holding bank entry after a start (R121). -/
def Holding.never : Holding := ⟨Bank.zero, .never⟩

/-- A LANE record after a cold start (section 4.1). -/
def LaneRecord.cold : LaneRecord := ⟨false, .dual, .secure, 5, 30, 31, 0xFFFF#16⟩

/-- No lane condition, or no change flag. -/
def LaneConditions.clear : LaneConditions := ⟨false, false, false, false⟩

/-- The running state of a lane that is not enabled, after a start (R81). -/
def Lane.cold : Lane where
  state := .disabled
  mode := .normal
  releaseTimer := none
  heldTimer := none
  punch := none
  missed := 0
  good := 0
  lastBit := none
  conditions := LaneConditions.clear
  changes := LaneConditions.clear
  lineErrors := 0
  refusals := 0
  lineErrorsCopy := 0
  refusalsCopy := 0
  pollTimer := none
  replyWindow := none
  line := none

/-- A BELL SCHEDULE entry after a cold start (R170). -/
def BellEntry.cold : BellEntry := ⟨false, .clock, 0, 0, 0, .start, 0, 0, 0, 0⟩

/-- A BELL PATTERN after a cold start (R170). -/
def Pattern.cold : Pattern := ⟨List.replicate 8 ⟨false, 0⟩, 1⟩

/-- An arbiter after a start (R170). -/
def Arbiter.idle : Arbiter := ⟨none, none, false⟩

/-! ## Records by index -/

def State.shift (s : State) (i : Nat) : Shift := Table.get Shift.cold s.shifts i
def State.crew (s : State) (i : Nat) : Crew := Table.get Crew.cold s.crews i
def State.rate (s : State) (i : Nat) : Rate := Table.get Rate.cold s.rates i
def State.worker (s : State) (i : Nat) : Worker := Table.get Worker.zeroed s.workers i
def State.laneRecord (s : State) (i : Nat) : LaneRecord := Table.get LaneRecord.cold s.laneTable i
def State.lane (s : State) (i : Nat) : Lane := Table.get Lane.cold s.lanes i
def State.bellEntry (s : State) (i : Nat) : BellEntry := Table.get BellEntry.cold s.schedule i
def State.pattern (s : State) (i : Nat) : Pattern := Table.get Pattern.cold s.patterns i
def State.arbiter (s : State) (i : Nat) : Arbiter := Table.get Arbiter.idle s.arbiters i
def State.holdingEntry (s : State) (i : Nat) : Holding := Table.get Holding.never s.holding i

def State.setWorker (s : State) (i : Nat) (w : Worker) : State :=
  { s with workers := Table.set Worker.zeroed s.workers i w }
def State.setLane (s : State) (i : Nat) (l : Lane) : State := { s with lanes := Table.set Lane.cold s.lanes i l }
def State.setArbiter (s : State) (i : Nat) (a : Arbiter) : State :=
  { s with arbiters := Table.set Arbiter.idle s.arbiters i a }

/-! ## Counts and time -/

/-- A 16-bit count raised by one, saturating at 65,535. -/
def bump (n : Nat) : Nat := min (n + 1) Config.maxCount

/-- A value brought to the nearest limit of a range (R199). -/
def clampTo (lo hi n : Nat) : Nat := max lo (min n hi)

/-- A gate time, brought to 4,294,967,295 if it would exceed it (R27, R28). -/
def capTime (t : Nat) : Nat := min t Config.maxTime

/-- "Now" (R1): the gate time while the clock is SET, and none, for the UNSET flag, while it is not. -/
def State.now (s : State) : Option Nat := if s.clock.valid then some s.clock.gateTime else none

/-- A time that may be the UNSET flag, as a stamp. -/
def stampOf : Option Nat → Stamp
  | some t => .time t
  | none => .unset

/-- Whether the blocks run: no start is going on (R205). -/
def State.running (s : State) : Bool := s.power.starting.isNone

/-- Whether a record is in use (R35). -/
def Worker.inUse (w : Worker) : Bool := decide (w.status ≠ .free)

/-- The chain-line drive (R174): on while the cause set holds FIRE or COMMAND. -/
def Evac.drive (e : Evac) : Bool := e.causes.fire || e.causes.command

/-- The indices of the four bell outputs. -/
def bellOutputs : List Nat := List.range Config.bellCount

/-- The lane numbers, ascending. -/
def laneNumbers : List Nat := List.range Config.laneCount

/-! ## Presence and the inside count -/

/-- The inside count after a presence changes (R38). -/
def insideAfter (count : Nat) (before after : Presence) : Nat :=
  if before ≠ .inside ∧ after = .inside then count + 1
  else if before = .inside ∧ after ≠ .inside then count - 1
  else count

/-- A record's presence is written and the inside count adjusted in the same step (R38). -/
def setPresence (i : Nat) (p : Presence) (s : State) : State :=
  let w := s.worker i
  { s.setWorker i { w with presence := p } with insideCount := insideAfter s.insideCount w.presence p }

/-! ## The upward queue -/

/-- An ALERT or PUNCH NOTICE frame enters the upward queue when it holds fewer than 6 frames, and is dropped
otherwise (R193). -/
def offerFrame (f : UpFrame) (s : State) : State :=
  if s.link.upQueue.length < 6 then { s with link := { s.link with upQueue := s.link.upQueue ++ [f] } } else s

end Sys2Proof.Machine
end

