-- ==== Sys2Proof/Machine/Calendar.lean ====
section
/-! DEFINITION. The Shift Calendar (chapter 2) and the calendar quantities of the introduction: days and weeks, rota
days, shift instances, the resolution of a crew at a moment, what an attendance captures, and shift occurrences. -/

namespace Sys2Proof.Machine

/-- Day number of a gate time. -/
def dayOf (t : Nat) : Nat := t / 86400

/-- The weekday of a day number (Conventions; R2). -/
def State.weekday (s : State) (d : Nat) : Nat := (d + s.clock.weekdayOffset) % 7

/-- The week index of a day number (Conventions; R2, R22). -/
def State.weekIndex (s : State) (d : Nat) : Nat := (d + s.clock.weekdayOffset + 7 - s.part.weekStart) / 7

/-- The rota day of a crew on a day number: the difference from the anchor reduced by the rota length, mathematically
(R19). -/
def Crew.rotaDay (c : Crew) (d : Nat) : Option Nat :=
  c.rota.getD (((d : Int) - (c.anchor : Int)) % (c.length : Int)).toNat none

/-- A shift crosses midnight when it is overnight or 24-hour (R17). -/
def Shift.crosses (r : Shift) : Bool := r.stop ≤ r.start

/-- The instance of shift `i` on day `d` (R23). -/
def State.shiftOn (s : State) (i d : Nat) : ShiftDay :=
  let r := s.shift i
  ⟨i, d, d * 86400 + 60 * r.start, d * 86400 + 60 * r.stop + (if r.crosses then 86400 else 0)⟩

/-- The candidate instances of a crew at a gate time (R24): the shift of the day, and the shift of the day before when
it crosses midnight. -/
def State.candidates (s : State) (crew t : Nat) : List ShiftDay :=
  let c := s.crew crew
  let d := dayOf t
  (match c.rotaDay d with
    | some i => [s.shiftOn i d]
    | none => [])
    ++ (if 1 ≤ d then
        match c.rotaDay (d - 1) with
        | some i => if (s.shift i).crosses then [s.shiftOn i (d - 1)] else []
        | none => []
      else [])

/-- The on-shift test (R25): at or after the start less the entry-open allowance, and before the end. -/
def State.onShift (s : State) (t : Nat) (c : ShiftDay) : Bool :=
  decide (c.start ≤ t + 60 * (s.shift c.shift).entryOpen) && decide (t < c.stop)

/-- The distance of a moment from a start, in seconds (R26). -/
def distance (t start : Nat) : Nat := (t - start) + (start - t)

/-- Of two passing instances: the one whose start is nearer, and on a tie the later start (R26). -/
def nearer (t : Nat) (a b : ShiftDay) : ShiftDay :=
  if distance t a.start < distance t b.start then a
  else if distance t b.start < distance t a.start then b
  else if b.start ≤ a.start then a else b

/-- The calendar resolves a crew at a gate time (R26). -/
def State.resolve (s : State) (crew t : Nat) : Option ShiftDay :=
  match (s.candidates crew t).filter (s.onShift t) with
  | [] => none
  | a :: rest => some (rest.foldl (nearer t) a)

/-- The attendance that opens for an IN with a verdict time (R27, R28). -/
def State.openingAttendance (s : State) (verdictTime : Nat) (held : Option ShiftDay) : Attendance :=
  match held with
  | some c =>
    { inTime := verdictTime, scheduled := some ⟨c.shift, c.start, c.stop⟩, dayKey := c.day,
      deadline := capTime (c.stop + 60 * (s.shift c.shift).outWindow), carried := false, carriedGross := 0,
      breakTaken := false }
  | none =>
    { inTime := verdictTime, scheduled := none, dayKey := dayOf verdictTime, deadline := capTime (verdictTime + 57600),
      carried := false, carriedGross := 0, breakTaken := false }

/-- A crew is in use while an in-use worker record names it (R31). -/
def State.crewInUse (s : State) (c : Nat) : Bool := s.workers.any fun e => e.2.inUse && decide (e.2.crew = c)

/-- Shift `i` occurs on day `d` when the rota day of an in-use crew is `i` (R31). -/
def State.occurs (s : State) (i d : Nat) : Bool :=
  (List.range 16).any fun c => s.crewInUse c && decide ((s.crew c).rotaDay d = some i)

end Sys2Proof.Machine
end

