-- ==== Sys2Proof/Decode.lean ====
section
/-! DEFINITION. From bytes to commands and back. The table gives no row bits, so `decodeTableWord` spells none; what
the spec does encode is a request's kind and payload (R186, R203, section 11.7) and a head's reply (R61). -/

namespace Sys2Proof

open Machine

/-- The command that a table word spells: the table gives no row any bits, so no word spells one. -/
def decodeTableWord (_nbits _w : Nat) : Option Instr := none

/-- The four broadcast requests: TIME SET, TIME SLEW, BELL RING and EVACUATE (R189). -/
def broadcastKind (kind : Byte) : Bool :=
  kind = 16#8 || kind = 17#8 || kind = 96#8 || kind = 112#8

/-- The row that takes a request addressed to this part, from its kind and payload (R192, R203). What no row's kind
and length fit is an UNKNOWN_REQUEST. -/
def decodePlain (r : Request) : Instr :=
  match r.kind.toNat, r.payload with
  | 1, [] => .describe r.tag
  | 2, [c] => .statusRead r.tag c
  | 3, [m, e] => .alertMask r.tag m e
  | 4, t :: f :: c :: records => .tableWrite r.tag t f c records
  | 5, [t, f, c] => .tableRead r.tag t f c
  | 6, [] => .restart r.tag
  | 16, [a, b, c, d, o] => .timeSet false r.tag (word a b c d) o
  | 17, [a, b] => .timeSlew false r.tag (half a b)
  | 18, [] => .timeRead r.tag
  | 32, [a, b, st, cr, rc, fl] => .workerSet r.tag (half a b) st cr rc fl
  | 33, [a, b] => .workerFree r.tag (half a b)
  | 34, [a, b, p] => .presenceSet r.tag (half a b) p
  | 35, [a, b, c] => .workerRead r.tag (half a b) c
  | 36, [a, b, c, d, i, j] => .badgeAdd r.tag (word a b c d) (half i j)
  | 37, [a, b, c, d] => .badgeRemove r.tag (word a b c d)
  | 38, [a, b, c, d] => .badgeFind r.tag (word a b c d)
  | 39, [a, b, c] => .badgeRead r.tag (half a b) c
  | 48, [l, c] =>
    if c = 0#8 then .laneCommandNormal r.tag l
    else if c = 1#8 then .laneCommandLocked r.tag l
    else if c = 2#8 then .laneCommandUnlocked r.tag l
    else if c = 3#8 then .laneCommandPulse r.tag l
    else .unknownRequest r
  | 49, [o, l] =>
    if o = 0#8 then .laneCountersLatch r.tag l
    else if o = 1#8 then .laneCountersRead r.tag l
    else if o = 2#8 then .laneCountersReset r.tag l
    else .unknownRequest r
  | 64, [a, b] => .totalsLatch r.tag (half a b)
  | 65, [a, b, c] => .totalsRead r.tag (half a b) c
  | 66, [a, b, c] => .closedRead r.tag (half a b) c
  | 72, [a, b] => .periodClose r.tag (half a b)
  | 73, [] => .closeCancel r.tag
  | 74, [] => .closeStatus r.tag
  | 80, [c] => .journalRead r.tag c
  | 81, [a, b] => .journalTrim r.tag (half a b)
  | 82, [c] => .journalStatus r.tag c
  | 96, [o, p, q] => .bellRing false r.tag o p q
  | 97, [o] => .bellSilence r.tag o
  | 98, [] => .bellStatus r.tag
  | 112, [] => .evacuate false r.tag
  | 113, [] => .evacuationClear r.tag
  | 114, [a, b, c] => .musterRead r.tag (half a b) c
  | 115, [a, b] => .musterList r.tag (half a b)
  | _, _ => .unknownRequest r

/-- The row that takes a request that came to address 31 (R12, R165, R180, R189). -/
def decodeBroadcast (r : Request) : Instr :=
  match r.kind.toNat, r.payload with
  | 16, [a, b, c, d, o] => .timeSet true r.tag (word a b c d) o
  | 17, [a, b] => .timeSlew true r.tag (half a b)
  | 96, [o, p, q] => .bellRing true r.tag o p q
  | 112, [] => .evacuate true r.tag
  | _, _ => .unknownRequest r

/-- The row that takes a request (R192). -/
def decodeRequest (r : Request) : Instr :=
  if r.broadcast then decodeBroadcast r else decodePlain r

/-- The request that a request row takes, laid out as R203 gives. Event rows take none. An UNKNOWN_REQUEST takes its
request only where no other row does. -/
def encodeRequest : Instr → Option Request
  | .describe tag => some ⟨false, 1#8, tag, []⟩
  | .statusRead tag c => some ⟨false, 2#8, tag, [c]⟩
  | .alertMask tag m e => some ⟨false, 3#8, tag, [m, e]⟩
  | .tableWrite tag t f c records => some ⟨false, 4#8, tag, t :: f :: c :: records⟩
  | .tableRead tag t f c => some ⟨false, 5#8, tag, [t, f, c]⟩
  | .restart tag => some ⟨false, 6#8, tag, []⟩
  | .timeSet b tag t o => some ⟨b, 16#8, tag, be32 t.toNat ++ [o]⟩
  | .timeSlew b tag a => some ⟨b, 17#8, tag, be16 a.toNat⟩
  | .timeRead tag => some ⟨false, 18#8, tag, []⟩
  | .workerSet tag i st cr rc fl => some ⟨false, 32#8, tag, be16 i.toNat ++ [st, cr, rc, fl]⟩
  | .workerFree tag i => some ⟨false, 33#8, tag, be16 i.toNat⟩
  | .presenceSet tag i p => some ⟨false, 34#8, tag, be16 i.toNat ++ [p]⟩
  | .workerRead tag i c => some ⟨false, 35#8, tag, be16 i.toNat ++ [c]⟩
  | .badgeAdd tag code i => some ⟨false, 36#8, tag, be32 code.toNat ++ be16 i.toNat⟩
  | .badgeRemove tag code => some ⟨false, 37#8, tag, be32 code.toNat⟩
  | .badgeFind tag code => some ⟨false, 38#8, tag, be32 code.toNat⟩
  | .badgeRead tag i c => some ⟨false, 39#8, tag, be16 i.toNat ++ [c]⟩
  | .laneCommandNormal tag l => some ⟨false, 48#8, tag, [l, 0#8]⟩
  | .laneCommandLocked tag l => some ⟨false, 48#8, tag, [l, 1#8]⟩
  | .laneCommandUnlocked tag l => some ⟨false, 48#8, tag, [l, 2#8]⟩
  | .laneCommandPulse tag l => some ⟨false, 48#8, tag, [l, 3#8]⟩
  | .laneCountersLatch tag l => some ⟨false, 49#8, tag, [0#8, l]⟩
  | .laneCountersRead tag l => some ⟨false, 49#8, tag, [1#8, l]⟩
  | .laneCountersReset tag l => some ⟨false, 49#8, tag, [2#8, l]⟩
  | .totalsLatch tag i => some ⟨false, 64#8, tag, be16 i.toNat⟩
  | .totalsRead tag i c => some ⟨false, 65#8, tag, be16 i.toNat ++ [c]⟩
  | .closedRead tag i c => some ⟨false, 66#8, tag, be16 i.toNat ++ [c]⟩
  | .periodClose tag cs => some ⟨false, 72#8, tag, be16 cs.toNat⟩
  | .closeCancel tag => some ⟨false, 73#8, tag, []⟩
  | .closeStatus tag => some ⟨false, 74#8, tag, []⟩
  | .journalRead tag c => some ⟨false, 80#8, tag, [c]⟩
  | .journalTrim tag n => some ⟨false, 81#8, tag, be16 n.toNat⟩
  | .journalStatus tag c => some ⟨false, 82#8, tag, [c]⟩
  | .bellRing b tag o p q => some ⟨b, 96#8, tag, [o, p, q]⟩
  | .bellSilence tag o => some ⟨false, 97#8, tag, [o]⟩
  | .bellStatus tag => some ⟨false, 98#8, tag, []⟩
  | .evacuate b tag => some ⟨b, 112#8, tag, []⟩
  | .evacuationClear tag => some ⟨false, 113#8, tag, []⟩
  | .musterRead tag i c => some ⟨false, 114#8, tag, be16 i.toNat ++ [c]⟩
  | .musterList tag i => some ⟨false, 115#8, tag, be16 i.toNat⟩
  | .unknownRequest r => if decodeRequest r = .unknownRequest r then some r else none
  | .downwardFrameReceived _ | .upwardFrameReceived _ | .downwardForwardSend | .upwardTransmit | .restartReplySent
  | .tick100ms _ _ | .secondTick | .segmentEnd _ | .pollTimerExpiry _ | .headEmpty _ | .headPunch _ _ _ _
  | .headDoorOpen _ _ | .headDoorClosed _ _ | .headTamperOn _ _ | .headTamperOff _ _ | .laneReplyBad _
  | .laneReplyMissed _ | .releaseTimerExpiry _ | .heldTimerExpiry _ | .gatherTimerExpiry | .walkStep | .fireActive
  | .fireInactive | .chainLevelActive | .chainLevelInactive | .powerUp | .mainPowerLost | .resetInputActive
  | .startComplete _ _ _ | .retainedDomainLost => none

/-! ## The lane line (R61) -/

/-- A sequence bit, a door state or a tamper state byte: 0 or 1 (R61). -/
def bitOf (b : Byte) : Option Bool :=
  if b = 0#8 then some false else if b = 1#8 then some true else none

/-- A direction key byte (R61). -/
def keyOf (b : Byte) : Option HeadKey :=
  if b = 0#8 then some .keyIn else if b = 1#8 then some .keyOut else if b = 2#8 then some .keyNone else none

/-- The number a direction key is carried as (R61). -/
def keyByte : HeadKey → Byte
  | .keyIn => 0#8
  | .keyOut => 1#8
  | .keyNone => 2#8

/-- A bit as its byte. -/
def bitByte (b : Bool) : Byte := if b then 1#8 else 0#8

/-- The row that the bytes arriving on a lane's line within one reply window give (R61): nothing is a missed reply;
the first byte names the kind and so the length; bytes beyond it are discarded; a wrong kind, too few bytes, a wrong
CRC-8 or a field outside its set is a bad reply. -/
def laneReply (lane : Nat) (bytes : List Byte) : Instr :=
  match bytes with
  | [] => .laneReplyMissed lane
  | k :: rest =>
    match k.toNat, rest with
    | 16, c :: _ => if c = crc8 [k] then .headEmpty lane else .laneReplyBad lane
    | 17, b :: c1 :: c2 :: c3 :: c4 :: d :: c :: _ =>
      if c = crc8 [k, b, c1, c2, c3, c4, d] then
        match bitOf b, keyOf d with
        | some bit, some key => .headPunch lane bit (word c1 c2 c3 c4) key
        | _, _ => .laneReplyBad lane
      else .laneReplyBad lane
    | 18, b :: d :: c :: _ =>
      if c = crc8 [k, b, d] then
        match bitOf b, bitOf d with
        | some bit, some true => .headDoorOpen lane bit
        | some bit, some false => .headDoorClosed lane bit
        | _, _ => .laneReplyBad lane
      else .laneReplyBad lane
    | 19, b :: d :: c :: _ =>
      if c = crc8 [k, b, d] then
        match bitOf b, bitOf d with
        | some bit, some true => .headTamperOn lane bit
        | some bit, some false => .headTamperOff lane bit
        | _, _ => .laneReplyBad lane
      else .laneReplyBad lane
    | _, _ => .laneReplyBad lane

/-- A frame of the lane line: its kind and payload, ended by the CRC-8 over both (R61). -/
def laneFrame (body : List Byte) : List Byte := body ++ [crc8 body]

/-- The reply a head sends for a head event row (R61). Other rows are no reply. -/
def encodeReply : Instr → Option (List Byte)
  | .headEmpty _ => some (laneFrame [16#8])
  | .headPunch _ bit code key => some (laneFrame (17#8 :: bitByte bit :: be32 code.toNat ++ [keyByte key]))
  | .headDoorOpen _ bit => some (laneFrame [18#8, bitByte bit, 1#8])
  | .headDoorClosed _ bit => some (laneFrame [18#8, bitByte bit, 0#8])
  | .headTamperOn _ bit => some (laneFrame [19#8, bitByte bit, 1#8])
  | .headTamperOff _ bit => some (laneFrame [19#8, bitByte bit, 0#8])
  | _ => none

/-- The lane of a head event row, and 0 for any other. -/
def replyLane : Instr → Nat
  | .headEmpty l | .headPunch l _ _ _ | .headDoorOpen l _ | .headDoorClosed l _ | .headTamperOn l _
  | .headTamperOff l _ => l
  | _ => 0

end Sys2Proof
end

