-- ==== Sys2Proof/Machine/Operands.lean ====
section
/-! DEFINITION. The wire forms of R202 to R204: enumerations and masks as numbers, the records of the seven tables read
from and written to bytes with the checks of their chapters, worker records, banks and journal entries. -/

namespace Sys2Proof.Machine

/-! ## Enumerated items: the position in the list of values (R202) -/

def Status.code : Status → Nat
  | .free => 0
  | .active => 1
  | .suspended => 2

def Presence.code : Presence → Nat
  | .outside => 0
  | .inside => 1
  | .unknown => 2

/-- A presence byte, none outside the set (R48). -/
def presenceOf (b : Byte) : Option Presence :=
  match b.toNat with
  | 0 => some .outside
  | 1 => some .inside
  | 2 => some .unknown
  | _ => none

/-- A status byte that WORKER SET takes: ACTIVE or SUSPENDED (R45). -/
def statusOf (b : Byte) : Option Status :=
  match b.toNat with
  | 1 => some .active
  | 2 => some .suspended
  | _ => none

/-- A yes/no byte: 1 is yes, 0 is no, and any other lies outside the set (R202). -/
def yesNo (b : Byte) : Option Bool :=
  match b.toNat with
  | 0 => some false
  | 1 => some true
  | _ => none

def Mark.code : Mark → Nat
  | .none => 0
  | .unaccounted => 1
  | .accounted => 2

def Direction.code : Direction → Nat
  | .inward => 0
  | .outward => 1

def LaneState.code : LaneState → Nat
  | .disabled => 0
  | .idle => 1
  | .released => 2
  | .opened => 3
  | .lost => 4

/-- The number a VERDICT result is carried as (R61). -/
def Verdict.code : Verdict → Nat
  | .accept => 0
  | .malformed => 1
  | .laneLocked => 2
  | .unknownBadge => 3
  | .suspended => 4
  | .notThisLane => 5
  | .journalFull => 6
  | .passback => 7
  | .outOfShift => 8
  | .ignored => 9
  | .musterOk => 10
  | .musterUnknown => 11
  | .busy => 12

/-- The verdict of a refusal (R66). -/
def Reason.verdict : Reason → Verdict
  | .malformed => .malformed
  | .laneLocked => .laneLocked
  | .unknownBadge => .unknownBadge
  | .suspended => .suspended
  | .notThisLane => .notThisLane
  | .journalFull => .journalFull
  | .passback => .passback
  | .outOfShift => .outOfShift

def Reason.code : Reason → Nat
  | .malformed => 0
  | .laneLocked => 1
  | .unknownBadge => 2
  | .suspended => 3
  | .notThisLane => 4
  | .journalFull => 5
  | .passback => 6
  | .outOfShift => 7

def PunchOutcome.code : PunchOutcome → Nat
  | .admitted => 0
  | .unused => 1
  | .rejected => 2

def MusterResult.code : MusterResult → Nat
  | .accounted => 0
  | .already => 1
  | .notInRoll => 2
  | .unknown => 3

def DoorEvent.code : DoorEvent → Nat
  | .forced => 0
  | .held => 1
  | .manualPulse => 2

def ClosePhase.code : ClosePhase → Nat
  | .idle => 0
  | .gathering => 1
  | .walking => 2
  | .suspended => 3

def CloseResult.code : CloseResult → Nat
  | .none => 0
  | .complete => 1
  | .clockUnset => 2

def StartKind.code : StartKind → Nat
  | .cold => 0
  | .warmReset => 1
  | .warmMain => 2
  | .warmRestart => 3

/-! ## Sets of yes/no entries (R202) -/

def LaneConditions.mask (c : LaneConditions) : Nat := bitSet [c.lost, c.forced, c.held, c.tamper]
def Causes.mask (c : Causes) : Nat := bitSet [c.fire, c.command, c.chain]
def PunchFlags.mask (f : PunchFlags) : Nat :=
  bitSet [f.freeLane, f.softPassback, f.passbackOut, f.reentry, f.unscheduled, f.noAttendance, f.orphanOut]
def PayFlags.mask (f : PayFlags) : Nat :=
  bitSet [f.carried, f.split, f.missedOut, f.long, f.negative, f.saturated, f.unscheduled, f.reentry]

/-! ## Times (R202) -/

/-- A stamp in five bytes: the state byte, then the value or zeros. -/
def stampBytes : Stamp → List Byte
  | .time t => 0#8 :: be32 t
  | .unset => 1#8 :: be32 0
  | .never => 2#8 :: be32 0

/-- A time in four bytes. A number that is no gate time has no stated form: its bytes are a free value (log entry 5). -/
def timeBytes (t : Int) : List Byte :=
  if 0 ≤ t ∧ t ≤ (Config.maxTime : Int) then be32 t.toNat else be32 (Config.timeField t).toNat

/-- A worker index that may be absent: 65,535 (R202). -/
def workerBytes : Option Nat → List Byte
  | some i => be16 i
  | none => be16 65535

/-! ## Journal entries (R204) -/

/-- The kind byte of an entry, in the order R143 lists the kinds. -/
def EntryBody.kind : EntryBody → Nat
  | .punch .. => 0
  | .payline .. => 1
  | .muster .. => 2
  | .door .. => 3
  | .override_ .. => 4
  | .evacStart _ | .evacEnd => 5
  | .clock .. => 6
  | .closeStart .. | .closeDone .. => 7

/-- The fields of an entry after its time (R204). -/
def EntryBody.bytes : EntryBody → List Byte
  | .punch v lane code worker dir outcome reason flags =>
    stampBytes v ++ be8 lane ++ be32 code ++ workerBytes worker ++ be8 dir.code ++ be8 outcome.code
      ++ be8 (match reason with | some r => r.code | none => 255) ++ be8 flags.mask
  | .payline worker rin rout r o1 o2 n p flags =>
    be16 worker ++ timeBytes rin ++ timeBytes rout ++ be16 r ++ be16 o1 ++ be16 o2 ++ be16 n ++ be32 p
      ++ be8 flags.mask
  | .muster lane code worker result => be8 lane ++ be32 code ++ workerBytes worker ++ be8 result.code
  | .door lane event => be8 lane ++ be8 event.code
  | .override_ worker before after voided =>
    be16 worker ++ be8 before.code ++ be8 after.code ++ flagByte voided
  | .evacStart causes => be8 0 ++ be8 causes.mask
  | .evacEnd => be8 1 ++ be8 0
  | .clock before after =>
    stampBytes (match before with | some t => .time t | none => .never) ++ be32 after
  | .closeStart g crews t => be8 0 ++ [g] ++ be16 crews.toNat ++ be32 t ++ be16 0 ++ be16 0 ++ be16 0
  | .closeDone g crews t c k sp =>
    be8 1 ++ [g] ++ be16 crews.toNat ++ be32 t ++ be16 c ++ be16 k ++ be16 sp

/-- A journal entry (R204): number, kind, time, fields. -/
def Entry.bytes (e : Entry) : List Byte :=
  be32 e.number.toNat ++ be8 e.body.kind ++ stampBytes (stampOf e.time) ++ e.body.bytes

/-! ## Worker records and banks (R203) -/

/-- The six counts of a bank. -/
def Bank.bytes (b : Bank) : List Byte :=
  be16 b.regular ++ be16 b.ot1 ++ be16 b.ot2 ++ be16 b.night ++ be32 b.pay ++ be16 b.pairings

/-- An open attendance, or its absence, as WORKER READ returns it. -/
def attendanceBytes : Option Attendance → List Byte
  | none => be8 0 ++ be32 0 ++ be8 0 ++ be32 0 ++ be32 0 ++ be16 0 ++ be32 0 ++ be8 0 ++ be32 0
  | some a =>
    (match a.scheduled with
      | none => be8 1 ++ be32 a.inTime ++ be8 0 ++ be32 0 ++ be32 0
      | some c => be8 2 ++ be32 a.inTime ++ be8 c.shift ++ timeBytes c.start ++ timeBytes c.stop)
      ++ be16 a.dayKey ++ be32 a.deadline ++ be8 (bitSet [a.carried, a.breakTaken]) ++ be32 a.carriedGross

/-- A tally: an empty one has the key 65,535, and minutes that the spec does not state (log entry 10). -/
def tallyBytes : Option Tally → List Byte
  | some t => be16 t.key ++ be16 t.minutes
  | none => be16 65535 ++ be16 Config.emptyTallyMinutes.toNat

/-- A worker record as WORKER READ returns it (R49, R203). -/
def Worker.bytes (w : Worker) : List Byte :=
  be8 w.status.code ++ be8 w.crew ++ be8 w.rateClass ++ be8 (bitSet [w.anytime, w.payhold]) ++ be8 w.presence.code
    ++ attendanceBytes w.attendance ++ tallyBytes w.dayTally ++ tallyBytes w.weekTally ++ [w.closeMark]
    ++ be8 w.muster.code

/-! ## Records of the tables (R198, R201, R202) -/

/-- The seven tables (R198). -/
inductive TableId where
  | shift | crew | rate | schedule | pattern | lane | part
deriving DecidableEq, Repr

/-- A table identifier byte (R198). -/
def tableOf (b : Byte) : Option TableId :=
  match b.toNat with
  | 1 => some .shift
  | 2 => some .crew
  | 3 => some .rate
  | 4 => some .schedule
  | 5 => some .pattern
  | 6 => some .lane
  | 7 => some .part
  | _ => none

/-- The number of records of a table (R198). -/
def TableId.records : TableId → Nat
  | .shift => 32
  | .crew => 16
  | .rate => 16
  | .schedule => 64
  | .pattern => 16
  | .lane => 16
  | .part => 1

/-- The bytes of a record (R198). -/
def TableId.size : TableId → Nat
  | .shift => 14
  | .crew => 38
  | .rate => 8
  | .schedule => 11
  | .pattern => 9
  | .lane => 9
  | .part => 15

/-- The records of a table that one request may name (R198). -/
def TableId.perRequest : TableId → Nat
  | .shift => 16
  | .crew => 6
  | .rate => 16
  | .schedule => 16
  | .pattern => 16
  | .lane => 16
  | .part => 1

/-- The legal values of a SHIFT record (R16). -/
def Shift.legal (r : Shift) : Bool :=
  r.start ≤ 1439 && r.stop ≤ 1439 && r.entryOpen ≤ 240 && r.earlyGrace ≤ 60 && r.lateGrace ≤ 60 && r.exitGrace ≤ 60
    && [1, 5, 6, 10, 12, 15, 30].contains r.quantum && r.break_ ≤ 120 && r.threshold ≤ 1440 && r.outWindow ≤ 720

/-- A SHIFT record from its 14 bytes; none when a field lies outside its set (R16). -/
def readShift : List Byte → Option Shift
  | [s1, s2, e1, e2, eo, eg, lg, xg, q, b, h1, h2, w1, w2] =>
    let r : Shift :=
      ⟨nat16 s1 s2, nat16 e1 e2, eo.toNat, eg.toNat, lg.toNat, xg.toNat, q.toNat, b.toNat, nat16 h1 h2, nat16 w1 w2⟩
    if r.legal then some r else none
  | _ => none

def Shift.bytes (r : Shift) : List Byte :=
  be16 r.start ++ be16 r.stop ++ be8 r.entryOpen ++ be8 r.earlyGrace ++ be8 r.lateGrace ++ be8 r.exitGrace
    ++ be8 r.quantum ++ be8 r.break_ ++ be16 r.threshold ++ be16 r.outWindow

/-- A rota day byte: a shift index, or OFF as 255 (R202). -/
def rotaDay (b : Byte) : Option Nat := if b = 255#8 then none else some b.toNat

/-- The legal values of a CREW record (R18). -/
def Crew.legal (r : Crew) : Bool :=
  1 ≤ r.length && r.length ≤ 28 && r.rota.all (fun d => match d with | some s => decide (s ≤ 31) | none => true)
    && r.dr ≤ 1440 && r.dr ≤ r.dl && r.dl ≤ 1440 && r.wr ≤ 10080

/-- A passback mode byte. -/
def passbackOf (b : Byte) : Option Passback :=
  match b.toNat with
  | 0 => some .hard
  | 1 => some .soft
  | _ => none

/-- A CREW record from its 38 bytes (R18). -/
def readCrew (bytes : List Byte) : Option Crew :=
  match bytes with
  | n :: a1 :: a2 :: rest =>
    match rest.drop 28 with
    | [d1, d2, l1, l2, w1, w2, p] =>
      match passbackOf p with
      | some mode =>
        let r : Crew :=
          ⟨n.toNat, nat16 a1 a2, (rest.take 28).map rotaDay, nat16 d1 d2, nat16 l1 l2, nat16 w1 w2, mode⟩
        if r.legal then some r else none
      | none => none
    | _ => none
  | _ => none

def Crew.bytes (r : Crew) : List Byte :=
  be8 r.length ++ be16 r.anchor
    ++ r.rota.map (fun d => match d with | some s => BitVec.ofNat 8 s | none => 255#8)
    ++ be16 r.dr ++ be16 r.dl ++ be16 r.wr ++ be8 (match r.passback with | .hard => 0 | .soft => 1)

/-- The legal values of a RATE record (R20); B and NP take every value of their two bytes. -/
def Rate.legal (r : Rate) : Bool := 100 ≤ r.m1 && r.m1 ≤ 400 && 100 ≤ r.m2 && r.m2 ≤ 400

/-- A RATE record from its 8 bytes (R20). -/
def readRate : List Byte → Option Rate
  | [b1, b2, m1, m2, n1, n2, p1, p2] =>
    let r : Rate := ⟨nat16 b1 b2, nat16 m1 m2, nat16 n1 n2, nat16 p1 p2⟩
    if r.legal then some r else none
  | _ => none

def Rate.bytes (r : Rate) : List Byte := be16 r.base ++ be16 r.m1 ++ be16 r.m2 ++ be16 r.premium

/-- The legal values of a BELL SCHEDULE entry's numbers (R157). -/
def BellEntry.legal (r : BellEntry) : Bool :=
  r.minute ≤ 1439 && r.shift ≤ 31 && -120 ≤ r.offset && r.offset ≤ 120 && r.pattern ≤ 15 && r.priority ≤ 3

/-- A BELL SCHEDULE entry from its 11 bytes (R157). Mask bits beyond the entries are not examined (R202). -/
def readBellEntry : List Byte → Option BellEntry
  | [u, k, m1, m2, wd, sh, a, o, outs, p, pr] =>
    match yesNo u, yesNo k, yesNo a with
    | some use, some kind, some anchor =>
      let r : BellEntry :=
        ⟨use, if kind then .shift else .clock, nat16 m1 m2, wd &&& 0x7F#8, sh.toNat, if anchor then .stop else .start,
          o.toInt, outs &&& 0x0F#8, p.toNat, pr.toNat⟩
      if r.legal then some r else none
    | _, _, _ => none
  | _ => none

def BellEntry.bytes (r : BellEntry) : List Byte :=
  flagByte r.inUse ++ be8 (match r.kind with | .clock => 0 | .shift => 1) ++ be16 r.minute ++ [r.weekdays]
    ++ be8 r.shift ++ be8 (match r.anchor with | .start => 0 | .stop => 1) ++ signed8 r.offset ++ [r.outputs]
    ++ be8 r.pattern ++ be8 r.priority

/-- A segment byte: duration in bits 0 to 5, level in bit 7 (R202). -/
def segmentOf (b : Byte) : Segment := ⟨b.getLsbD 7, b.toNat % 64⟩

/-- A BELL PATTERN from its 9 bytes; the repeat count is 1 to 15 (R158). -/
def readPattern (bytes : List Byte) : Option Pattern :=
  match bytes.drop 8 with
  | [n] => if 1 ≤ n.toNat ∧ n.toNat ≤ 15 then some ⟨(bytes.take 8).map segmentOf, n.toNat⟩ else none
  | _ => none

def Pattern.bytes (r : Pattern) : List Byte :=
  r.segments.map (fun g => BitVec.ofNat 8 (g.duration + if g.level then 128 else 0)) ++ be8 r.repeats

/-- A lane direction byte. -/
def laneDirectionOf (b : Byte) : Option LaneDirection :=
  match b.toNat with
  | 0 => some .onlyIn
  | 1 => some .onlyOut
  | 2 => some .dual
  | _ => none

/-- A LANE record from its 9 bytes, its three times brought to their limits, and whether one was (R57). -/
def readLane : List Byte → Option (LaneRecord × Bool)
  | [e, d, f, r, h1, h2, w, m1, m2] =>
    match yesNo e, laneDirectionOf d, yesNo f with
    | some enabled, some dir, some fail =>
      let rt := clampTo 1 30 r.toNat
      let ht := clampTo 5 300 (nat16 h1 h2)
      let wt := clampTo 1 31 w.toNat
      some (⟨enabled, dir, if fail then .opens else .secure, rt, ht, wt, half m1 m2⟩,
        decide (rt ≠ r.toNat) || decide (ht ≠ nat16 h1 h2) || decide (wt ≠ w.toNat))
    | _, _, _ => none
  | _ => none

def LaneRecord.bytes (r : LaneRecord) : List Byte :=
  flagByte r.enabled ++ be8 (match r.direction with | .onlyIn => 0 | .onlyOut => 1 | .dual => 2)
    ++ be8 (match r.fail with | .secure => 0 | .opens => 1) ++ be8 r.releaseTime ++ be16 r.heldTime ++ be8 r.window
    ++ be16 r.crewMask.toNat

/-- The legal values of the refusable numbers of the PART record (R21, R150, R201). -/
def PartRecord.legal (r : PartRecord) : Bool :=
  64 ≤ r.highMark && r.highMark ≤ 2047 && r.nightStart ≤ 1439 && r.nightEnd ≤ 1439 && r.weekStart ≤ 6
    && r.evacPattern ≤ 15

/-- The PART record from its 15 bytes, its clampable fields brought to their limits, and whether one was (R201). -/
def readPart : List Byte → Option (PartRecord × Bool)
  | [p, h1, h2, lv, g, d, n1, n2, e1, e2, ws, ev, al, po, ex] =>
    match yesNo p, yesNo lv, yesNo al, yesNo ex with
    | some wrap, some live, some alert, some ext =>
      let gw := clampTo 1 10 g.toNat
      let dw := clampTo 1 10 d.toNat
      let pw := clampTo 20 200 po.toNat
      let r : PartRecord :=
        ⟨wrap, nat16 h1 h2, live, gw, dw, nat16 n1 n2, nat16 e1 e2, ws.toNat, ev.toNat, alert, pw, ext⟩
      if r.legal then
        some (r, decide (gw ≠ g.toNat) || decide (dw ≠ d.toNat) || decide (pw ≠ po.toNat))
      else none
    | _, _, _, _ => none
  | _ => none

def PartRecord.bytes (r : PartRecord) : List Byte :=
  flagByte r.wrap ++ be16 r.highMark ++ flagByte r.liveNotices ++ be8 r.gatherWindow ++ be8 r.duplicateWindow
    ++ be16 r.nightStart ++ be16 r.nightEnd ++ be8 r.weekStart ++ be8 r.evacPattern ++ flagByte r.alertEnable
    ++ be8 r.pollInterval ++ flagByte r.extendedLoss

/-- The records of a run: `count` records of `size` bytes each, none when one of them fails its check (R199). -/
def readRun {α : Type} (read : List Byte → Option α) (size : Nat) : Nat → List Byte → Option (List α)
  | 0, _ => some []
  | n + 1, bytes =>
    match read (bytes.take size), readRun read size n (bytes.drop size) with
    | some r, some rest => some (r :: rest)
    | _, _ => none

/-- A record of a table as TABLE READ returns it (R200). -/
def recordBytes (s : State) (t : TableId) (i : Nat) : List Byte :=
  match t with
  | .shift => (s.shift i).bytes
  | .crew => (s.crew i).bytes
  | .rate => (s.rate i).bytes
  | .schedule => (s.bellEntry i).bytes
  | .pattern => (s.pattern i).bytes
  | .lane => (s.laneRecord i).bytes
  | .part => s.part.bytes

/-- The bytes of a run of indices from `first`. -/
def runBytes (f : Nat → List Byte) (first count : Nat) : List Byte :=
  (List.range count).flatMap fun k => f (first + k)

end Sys2Proof.Machine
end

