-- ==== Sys2Proof/Machine/Flags.lean ====
section
/-! DEFINITION. Conditions, change flags and ALERT frames (R77, R78, R151, R171, R194, R195), and the status digest. -/

namespace Sys2Proof.Machine

/-- The eight conditions that can alert, in the order of section 11.5. -/
inductive Condition where
  | lost | forced | held | tamper | journalHigh | journalFull | evacuating | closeDone
deriving DecidableEq, Repr

/-- The number of a condition in an ALERT frame and in the alert mask (R204). -/
def Condition.code : Condition → Nat
  | .lost => 0
  | .forced => 1
  | .held => 2
  | .tamper => 3
  | .journalHigh => 4
  | .journalFull => 5
  | .evacuating => 6
  | .closeDone => 7

/-- An alert to offer: the condition and its new state (R195). -/
structure Alert where
  condition : Condition
  state : Nat
deriving DecidableEq, Repr

/-- SET 1, CLEAR 0 (R204). -/
def setClear (b : Bool) : Nat := if b then 1 else 0

/-- The owning block offers an ALERT frame when the condition's mask entry and the global alert enable allow it
(R78, R195). The frame enters the upward queue or is dropped by R193. -/
def offerAlert (lane : Nat) (a : Alert) (s : State) : State :=
  if s.link.alertMask.getLsbD a.condition.code && s.part.alertEnable then
    offerFrame ⟨240#8, 0#8, be8 a.condition.code ++ be8 lane ++ be8 a.state⟩ s
  else s

/-- An alert put before the first of larger rank. -/
def insertAlert (rank : Nat → Nat) (a : Alert) : List Alert → List Alert
  | [] => [a]
  | b :: t => if rank a.condition.code ≤ rank b.condition.code then a :: b :: t else b :: insertAlert rank a t

/-- Alerts by ascending rank. -/
def sortAlerts (rank : Nat → Nat) : List Alert → List Alert
  | [] => []
  | a :: t => insertAlert rank a (sortAlerts rank t)

/-- The alerts of one action, in an order that the spec leaves open (log entry 7). -/
def offerAlerts (lane : Nat) (l : List Alert) (s : State) : State :=
  (sortAlerts (Config.alertRank s.clock.tickCount) l).foldl (fun t a => offerAlert lane a t) s

/-- The lane byte of an alert whose condition belongs to no lane (R195). -/
def noLane : Nat := 255

/-! ## Lane conditions (R77, R78) -/

/-- The items that differ. -/
def LaneConditions.diff (a b : LaneConditions) : LaneConditions :=
  ⟨a.lost ^^ b.lost, a.forced ^^ b.forced, a.held ^^ b.held, a.tamper ^^ b.tamper⟩

/-- The items set in either. -/
def LaneConditions.union (a b : LaneConditions) : LaneConditions :=
  ⟨a.lost || b.lost, a.forced || b.forced, a.held || b.held, a.tamper || b.tamper⟩

/-- Whether an item is set. -/
def LaneConditions.any (a : LaneConditions) : Bool := a.lost || a.forced || a.held || a.tamper

/-- The alerts of the conditions that change and whose change flag was clear (R78). -/
def LaneConditions.alerts (changed flags new : LaneConditions) : List Alert :=
  (if changed.lost && !flags.lost then [⟨.lost, setClear new.lost⟩] else [])
    ++ (if changed.forced && !flags.forced then [⟨.forced, setClear new.forced⟩] else [])
    ++ (if changed.held && !flags.held then [⟨.held, setClear new.held⟩] else [])
    ++ (if changed.tamper && !flags.tamper then [⟨.tamper, setClear new.tamper⟩] else [])

/-- A lane's conditions become `new`: the change flag of each that changes is set (R77), and an alert is offered for
each flag that goes from clear to set (R78). -/
def setConditions (lane : Nat) (new : LaneConditions) (s : State) : State :=
  let l := s.lane lane
  let changed := l.conditions.diff new
  offerAlerts lane (changed.alerts l.changes new)
    (s.setLane lane { l with conditions := new, changes := l.changes.union changed })

/-! ## Conditions of the part -/

/-- JOURNAL_HIGH (R151). -/
def State.journalHigh (s : State) : Bool := decide (s.part.highMark ≤ s.journal.entries.length)

/-- JOURNAL_FULL (R151). -/
def State.journalFull (s : State) : Bool := decide (s.journal.entries.length = Config.journalCap)

/-- The change flags and alerts of the journal conditions that changed (R151). -/
def flagJournal (highChanged fullChanged : Bool) (s : State) : State :=
  let alerts :=
    (if highChanged && !s.changes.journalHigh then [⟨.journalHigh, setClear s.journalHigh⟩] else [])
      ++ (if fullChanged && !s.changes.journalFull then [⟨.journalFull, setClear s.journalFull⟩] else [])
  offerAlerts noLane alerts
    { s with changes :=
        { s.changes with
          journalHigh := s.changes.journalHigh || highChanged
          journalFull := s.changes.journalFull || fullChanged } }

/-- The journal updates its conditions when the fill or the high mark has changed; `before` is the state from before
the change (R151). -/
def updateJournalConditions (before s : State) : State :=
  flagJournal (before.journalHigh ^^ s.journalHigh) (before.journalFull ^^ s.journalFull) s

/-- The EVACUATING condition's change flag is set, with an alert when it was clear (R171). -/
def flagEvacuating (s : State) : State :=
  let s' := { s with changes := { s.changes with evacuating := true } }
  if s.changes.evacuating then s' else offerAlert noLane ⟨.evacuating, setClear s.evac.evacuating⟩ s'

/-- The CLOSE_DONE change flag is set, with an alert of the last result when it was clear (R136, R195). -/
def flagCloseDone (s : State) : State :=
  let s' := { s with changes := { s.changes with closeDone := true } }
  if s.changes.closeDone then s' else offerAlert noLane ⟨.closeDone, s.close.lastResult.code⟩ s'

/-! ## The status digest (R194) -/

/-- Bit 6: a lane condition is set on an enabled lane. -/
def State.laneAlarm (s : State) : Bool :=
  laneNumbers.any fun i => (s.laneRecord i).enabled && (s.lane i).conditions.any

/-- Bit 7: a change flag of the part is set. -/
def State.anyChange (s : State) : Bool :=
  laneNumbers.any (fun i => (s.lane i).changes.any)
    || s.changes.journalHigh || s.changes.journalFull || s.changes.evacuating || s.changes.closeDone

/-- The status digest, from the state as it stands. -/
def State.digest (s : State) : Byte :=
  BitVec.ofNat 8
    (bitSet
      [s.clock.valid, s.evac.evacuating, decide (s.close.phase.code % 2 = 1), decide (2 ≤ s.close.phase.code),
        s.journalHigh, s.journalFull, s.laneAlarm, s.anyChange])

end Sys2Proof.Machine
end

