-- ==== Sys2Proof/Machine/Requests.lean ====
section
/-! DEFINITION. How a request is taken and answered (R191, R192, R193): the request buffer, the reply codes, the reply
frames, and the one operation that every request row's meaning is written over. -/

namespace Sys2Proof.Machine

/-- The reply codes (R186). -/
inductive ReplyCode where
  | ok | clamped | busy | badIndex | badValue | badTable | notPermitted | notFound | duplicate | full | hazardActive
  | clockUnset
deriving DecidableEq, Repr

/-- The value a reply code is carried as (R186). -/
def ReplyCode.code : ReplyCode → Nat
  | .ok => 0
  | .clamped => 1
  | .busy => 2
  | .badIndex => 3
  | .badValue => 4
  | .badTable => 5
  | .notPermitted => 6
  | .notFound => 7
  | .duplicate => 8
  | .full => 9
  | .hazardActive => 10
  | .clockUnset => 11

/-- What an owning block returns: the state it leaves, the reply code, and the reply's data. -/
structure Answer where
  state : State
  code : ReplyCode
  data : List Byte
deriving DecidableEq, Repr

/-- An answer without data. -/
def answer (c : ReplyCode) (s : State) : Answer := ⟨s, c, []⟩

/-- An OK answer with data that leaves the state as it is. -/
def returns (data : List Byte) (s : State) : Answer := ⟨s, .ok, data⟩

/-- Whether a run of `count` plus one indices from `first` is refused: longer than 16 or past the end (R203). -/
def badRun (first : Half) (count : Byte) (entries : Nat) : Bool :=
  decide (15 < count.toNat) || decide (entries < first.toNat + count.toNat + 1)

/-- Reply data cut into parts of up to 238 bytes, at most four (R192). -/
def replyParts : Nat → List Byte → List (List Byte)
  | 0, d => [d]
  | n + 1, d => if d.length ≤ 238 then [d] else d.take 238 :: replyParts n (d.drop 238)

/-- The frames of a reply from part `n` on: kind and tag of the request; code, part byte, data (R186, R192). -/
def replyFrames (r : Request) (code : ReplyCode) : Nat → List (List Byte) → List UpFrame
  | _, [] => []
  | n, [d] => [⟨r.kind, r.tag, be8 code.code ++ be8 (n + 128) ++ d⟩]
  | n, d :: e :: rest => ⟨r.kind, r.tag, be8 code.code ++ be8 n ++ d⟩ :: replyFrames r code (n + 1) (e :: rest)

/-- All frames of a reply enter the upward queue together (R192, R193). -/
def queueReply (r : Request) (a : Answer) : State :=
  { a.state with
    link := { a.state.link with
      upQueue := a.state.link.upQueue ++ replyFrames r a.code 0 (replyParts 3 a.data) } }

/-- A request is offered to the request buffer: stored as the newest when it holds fewer than 2, discarded and counted
otherwise (R191). -/
def offerRequest (r : Request) (s : State) : State :=
  if s.link.requests.length < Config.requestCap then
    { s with link := { s.link with requests := s.link.requests ++ [r] } }
  else { s with link := { s.link with requestDrops := bump s.link.requestDrops } }

/-- Whether the oldest request may be taken: not behind a RESTART (R207), and, unless it is a broadcast, with 4 frames
or fewer in the upward queue (R191). -/
def mayTake (r : Request) (s : State) : Bool :=
  s.link.restart.isNone && (r.broadcast || decide (s.link.upQueue.length ≤ 4))

/-- A request leaves the buffer when it is taken (R191). -/
def popRequest (s : State) : State := { s with link := { s.link with requests := s.link.requests.tail } }

/-- The answer to a taken request: none for a broadcast, the reply's frames otherwise (R192). -/
def finishRequest (r : Request) (a : Answer) : State := if r.broadcast then a.state else queueReply r a

/-- A request row's command. The request is the oldest in the buffer, or else it is now offered to the buffer; then it
is taken if it is the oldest and may be taken, whole and in one event of its owning block `act` (R191, R192; log
entry 2). During a start no block runs and the request is lost (R205). -/
def takeRequest (i : Instr) (act : State → Answer) (s : State) : State :=
  match encodeRequest i with
  | none => s
  | some r =>
    if s.running then
      let s1 := if s.link.requests.head? = some r then s else offerRequest r s
      if s1.link.requests.head? = some r ∧ mayTake r s1 then finishRequest r (act (popRequest s1)) else s1
    else s

end Sys2Proof.Machine
end

