-- ==== Sys2Proof/Machine/Bells.lean ====
section
/-! DEFINITION. The Bell Unit (chapter 9): cadences, the output arbiters, schedule firing, the evacuation tone, and the
bell requests. -/

namespace Sys2Proof.Machine

/-! ## Cadences (R158, R164) -/

/-- The segments of one pass: those before the first of duration 0 (R158). -/
def Pattern.pass (p : Pattern) : List Segment := p.segments.takeWhile fun g => decide (g.duration ≠ 0)

/-- A cadence of a pattern's copy at its segment 0; none when the copy is empty (R164). -/
def startCadence (number : Nat) (p : Pattern) (priority : Nat) (passes : Passes) : Option Cadence :=
  match p.pass with
  | g :: _ => some ⟨number, p, priority, 0, passes, some g.duration⟩
  | [] => none

/-- The cadence a request's activation begins (R164). -/
def State.cadenceOf (s : State) (r : BellRequest) : Option Cadence :=
  startCadence r.pattern (s.pattern r.pattern) r.priority (.finite (s.pattern r.pattern).repeats)

/-- Completion (R164): a pending request becomes active; one with an empty pattern ends at once. -/
def State.complete (s : State) (waiting : Option BellRequest) : Arbiter :=
  match waiting with
  | some q => ⟨s.cadenceOf q, none, false⟩
  | none => Arbiter.idle

/-- Activation of a request, with a pending request behind it (R164). -/
def State.activate (s : State) (r : BellRequest) (waiting : Option BellRequest) : Arbiter :=
  match s.cadenceOf r with
  | some c => ⟨some c, waiting, false⟩
  | none => s.complete waiting

/-- The results of a request to an arbiter (R163), and NONE for an output not selected (R165). -/
inductive BellResult where
  | active | preempted | pending | replaced | discarded | none
deriving DecidableEq, Repr

/-- The number a result is carried as (R203). -/
def BellResult.code : BellResult → Nat
  | .active => 0
  | .preempted => 1
  | .pending => 2
  | .replaced => 3
  | .discarded => 4
  | .none => 5

/-- Arbitration (R163): a request is decided by the first line of the table that fits the arbiter. While the part is
evacuating every request is discarded (R168). -/
def State.arbitrate (s : State) (a : Arbiter) (r : BellRequest) : Arbiter × BellResult :=
  if s.evac.evacuating then (a, .discarded)
  else
    match a.active with
    | none => (s.activate r a.waiting, .active)
    | some c =>
      if c.priority < r.priority then (s.activate r a.waiting, .preempted)
      else
        match a.waiting with
        | none => ({ a with waiting := some r }, .pending)
        | some q => if q.priority < r.priority then ({ a with waiting := some r }, .replaced) else (a, .discarded)

/-- A request reaches an output's arbiter. -/
def ringOutput (r : BellRequest) (s : State) (o : Nat) : State := s.setArbiter o (s.arbitrate (s.arbiter o) r).1

/-- The outputs a mask selects, ascending. -/
def maskedOutputs (mask : Byte) : List Nat := bellOutputs.filter fun o => mask.getLsbD o

/-- One request reaches each selected output, in ascending order (R161, R165). -/
def ringOutputs (mask : Byte) (r : BellRequest) (s : State) : State := (maskedOutputs mask).foldl (ringOutput r) s

/-- The result BELL RING reports for an output (R165). -/
def State.ringResult (s : State) (mask : Byte) (r : BellRequest) (o : Nat) : BellResult :=
  if mask.getLsbD o then (s.arbitrate (s.arbiter o) r).2 else .none

/-! ## Segments (R164) -/

/-- The cadence with segment `k` begun. -/
def Cadence.begin (c : Cadence) (k : Nat) (passes : Passes) : Cadence :=
  { c with
    segment := k
    passes := passes
    timer := match c.copy.pass[k]? with
      | some g => some g.duration
      | none => none }

/-- The arbiter after a segment of its cadence ends: the next segment, the next pass, or completion (R164, R168). -/
def State.afterSegment (s : State) (a : Arbiter) (c : Cadence) : Arbiter :=
  if c.segment + 1 < c.copy.pass.length then { a with active := some (c.begin (c.segment + 1) c.passes) }
  else
    match c.passes with
    | .endless => { a with active := some (c.begin 0 .endless) }
    | .finite n => if 1 < n then { a with active := some (c.begin 0 (.finite (n - 1))) } else s.complete a.waiting

/-- The segment timer of an output reaches the segment's duration (R164). -/
def segmentEnd (o : Nat) (s : State) : State :=
  let a := s.arbiter o
  if s.running ∧ o < Config.bellCount then
    match a.active with
    | some c => if c.timer = some 0 then s.setArbiter o (s.afterSegment a c) else s
    | none => s
  else s

/-- Whether a bell output is asserted: the level of the segment that plays, and throughout an empty tone (R164, R168);
idle during a start (R205). -/
def State.bellAsserted (s : State) (o : Nat) : Bool :=
  s.running
    && (match (s.arbiter o).active with
      | none => false
      | some c =>
        match c.copy.pass with
        | [] => true
        | _ =>
          match c.copy.pass[c.segment]? with
          | some g => g.level
          | none => false)

/-! ## Schedules (R159 to R162) -/

/-- The bell time of a SHIFT entry on the instance of day `d` (R160). -/
def State.shiftBell (s : State) (e : BellEntry) (d : Nat) : Int :=
  let c := s.shiftOn e.shift d
  (match e.anchor with | .start => (c.start : Int) | .stop => (c.stop : Int)) + 60 * e.offset

/-- Whether an entry's bell time is `t` (R159, R160): a SHIFT entry is looked for among the instances of the day
before, the day and the day after, on day 0 of no day before (log entry 29, DEDUCED). -/
def State.ringsAt (s : State) (e : BellEntry) (t : Nat) : Bool :=
  let d := dayOf t
  e.inUse
    && (match e.kind with
      | .clock => decide (t = d * 86400 + 60 * e.minute) && e.weekdays.getLsbD (s.weekday d)
      | .shift =>
        ((if 1 ≤ d then [d - 1] else []) ++ [d, d + 1]).any fun k =>
          s.occurs e.shift k && decide (s.shiftBell e k = (t : Int)))

/-- An entry fires if its bell time is `t`: one request to each of its outputs (R161). -/
def fireEntry (t : Nat) (s : State) (i : Nat) : State :=
  let e := s.bellEntry i
  if s.ringsAt e t then ringOutputs e.outputs ⟨e.pattern, e.priority⟩ s else s

/-- Every entry whose bell time is `t` fires, in order of entry index (R161). -/
def fireAt (s : State) (t : Nat) : State := (List.range 64).foldl (fireEntry t) s

/-- An advance event fires the entries with a bell time after the previous and at or before the new gate time, in
ascending order of bell time (R161). -/
def fireBells (previous new : Nat) (s : State) : State :=
  ((List.range (new - previous)).map fun k => previous + 1 + k).foldl fireAt s

/-! ## The evacuation tone (R168, R169) -/

/-- The arbiter that sounds the evacuation tone (R168). -/
def State.toneArbiter (s : State) : Arbiter :=
  let p := s.pattern s.part.evacPattern
  ⟨some ⟨s.part.evacPattern, p, 4, 0, .endless, match p.pass with | g :: _ => some g.duration | [] => none⟩, none, false⟩

/-- All four arbiters take the tone. -/
def soundTone (s : State) : State := bellOutputs.foldl (fun t o => t.setArbiter o s.toneArbiter) s

/-- All four arbiters become idle (R169, R170). -/
def idleBells (s : State) : State := { s with arbiters := [] }

/-! ## Requests (R165 to R167) -/

/-- BELL RING (R165). -/
def bellRing (outputs pattern priority : Byte) (s : State) : Answer :=
  if 15 < pattern.toNat ∨ 3 < priority.toNat then answer .badValue s
  else
    let r : BellRequest := ⟨pattern.toNat, priority.toNat⟩
    ⟨ringOutputs outputs r s, .ok, bellOutputs.flatMap fun o => be8 (s.ringResult outputs r o).code⟩

/-- The arbiter that BELL SILENCE leaves: idle, or silenced while evacuating (R166, R169). -/
def State.silencedArbiter (s : State) : Arbiter := ⟨none, none, s.evac.evacuating⟩

/-- BELL SILENCE (R166, R169). -/
def bellSilence (outputs : Byte) (s : State) : Answer :=
  answer .ok ((maskedOutputs outputs).foldl (fun t o => t.setArbiter o s.silencedArbiter) s)

/-- The passes-left byte (R202). -/
def Passes.code : Passes → Nat
  | .finite n => n
  | .endless => 255

/-- An arbiter as BELL STATUS returns it (R167, R203). -/
def State.arbiterBytes (s : State) (o : Nat) : List Byte :=
  let a := s.arbiter o
  (match a.active with
    | some c =>
      be8 1 ++ be8 c.pattern ++ be8 c.priority ++ be8 c.segment ++ be8 c.passes.code ++ flagByte (s.bellAsserted o)
    | none => be8 0 ++ be8 0 ++ be8 0 ++ be8 0 ++ be8 0 ++ be8 0)
    ++ (match a.waiting with
      | some q => be8 1 ++ be8 q.pattern ++ be8 q.priority
      | none => be8 0 ++ be8 0 ++ be8 0)
    ++ flagByte a.silenced

/-- BELL STATUS (R167). -/
def bellStatus (s : State) : Answer := returns (bellOutputs.flatMap s.arbiterBytes) s

/-- BELL_RING. -/
def execBellRing (broadcast : Bool) (tag outputs pattern priority : Byte) (s : State) :
    Host.Outcome State Fault Refusal :=
  .next (takeRequest (.bellRing broadcast tag outputs pattern priority) (bellRing outputs pattern priority) s)

/-- BELL_SILENCE. -/
def execBellSilence (tag outputs : Byte) (s : State) : Host.Outcome State Fault Refusal :=
  .next (takeRequest (.bellSilence tag outputs) (bellSilence outputs) s)

/-- BELL_STATUS. -/
def execBellStatus (tag : Byte) (s : State) : Host.Outcome State Fault Refusal :=
  .next (takeRequest (.bellStatus tag) bellStatus s)

/-- SEGMENT_END. -/
def execSegmentEnd (output : Nat) (s : State) : Host.Outcome State Fault Refusal := .next (segmentEnd output s)

end Sys2Proof.Machine
end

