-- ==== Sys2Proof/Machine/Journal.lean ====
section
/-! DEFINITION. The punch journal (chapter 8): appending, and the three journal requests. -/

namespace Sys2Proof.Machine

/-- The PUNCH NOTICE frame of an entry, which it carries whole (R155, R204). -/
def noticeFrame (e : Entry) : UpFrame := ⟨241#8, 0#8, e.bytes⟩

/-- The journal's entries become `entries` by storing `e`: the conditions are updated (R151) and, with live notices on,
the entry is offered upward (R155). The spec leaves open which of the two comes first (log entry 6). -/
def storeEntry (e : Entry) (entries : List Entry) (s : State) : State :=
  let s1 := { s with journal := { s.journal with entries := entries } }
  if s.part.liveNotices then
    if Config.noticeFirst e.number then updateJournalConditions s (offerFrame (noticeFrame e) s1)
    else offerFrame (noticeFrame e) (updateJournalConditions s s1)
  else updateJournalConditions s s1

/-- An entry is offered (R143, R147 to R149): it takes the next entry number and the present time; it is stored as the
newest below 2048 entries, stored with the oldest discarded under WRAP, and lost under HOLD. -/
def offerEntry (body : EntryBody) (s : State) : State :=
  let e : Entry := ⟨s.journal.next, s.now, body⟩
  let s1 := { s with journal := { s.journal with next := s.journal.next + 1 } }
  if s.journal.entries.length < Config.journalCap then storeEntry e (s.journal.entries ++ [e]) s1
  else
    let s2 := { s1 with journal := { s1.journal with overflow := bump s1.journal.overflow } }
    if s.part.wrap then storeEntry e (s.journal.entries.tail ++ [e]) s2 else s2

/-- The entry number of the oldest entry held, or none (R153, R154). -/
def oldestBytes (s : State) : List Byte :=
  stampBytes (match s.journal.entries with | e :: _ => .time e.number.toNat | [] => .never)

/-- JOURNAL READ (R152). -/
def journalRead (count : Byte) (s : State) : Answer :=
  if count.toNat > 7 then answer .badIndex s
  else
    returns
      (be16 s.journal.entries.length ++ be32 s.journal.next.toNat
        ++ (s.journal.entries.take (count.toNat + 1)).flatMap Entry.bytes) s

/-- The oldest `n` entries are removed and the conditions updated (R153). -/
def trimJournal (n : Nat) (s : State) : State :=
  updateJournalConditions s { s with journal := { s.journal with entries := s.journal.entries.drop n } }

/-- JOURNAL TRIM (R153). -/
def journalTrim (count : Half) (s : State) : Answer :=
  let n := count.toNat
  if n = 0 ∨ Config.journalCap < n then answer .badIndex s
  else
    let s' := trimJournal n s
    ⟨s', .ok, be16 (min n s.journal.entries.length) ++ oldestBytes s'⟩

/-- JOURNAL STATUS (R154). -/
def journalStatus (clear : Byte) (s : State) : Answer :=
  match yesNo clear with
  | none => answer .badValue s
  | some c =>
    ⟨if c then { s with journal := { s.journal with overflow := 0 } } else s, .ok,
      be16 s.journal.entries.length ++ be16 s.journal.overflow ++ flagByte s.part.wrap ++ be16 s.part.highMark
        ++ be8 (bitSet [s.journalHigh, s.journalFull]) ++ oldestBytes s ++ be32 s.journal.next.toNat⟩

/-- JOURNAL_READ. -/
def execJournalRead (tag count : Byte) (s : State) : Host.Outcome State Fault Refusal :=
  .next (takeRequest (.journalRead tag count) (journalRead count) s)

/-- JOURNAL_TRIM. -/
def execJournalTrim (tag : Byte) (count : Half) (s : State) : Host.Outcome State Fault Refusal :=
  .next (takeRequest (.journalTrim tag count) (journalTrim count) s)

/-- JOURNAL_STATUS. -/
def execJournalStatus (tag clear : Byte) (s : State) : Host.Outcome State Fault Refusal :=
  .next (takeRequest (.journalStatus tag clear) (journalStatus clear) s)

end Sys2Proof.Machine
end

