-- ==== Sys2Proof/Machine/Pay.lean ====
section
/-! DEFINITION. The Pay Engine (chapter 6): the eight stages of a pairing, the PAYLINE entry, and the holding bank with
its requests. -/

namespace Sys2Proof.Machine

/-- The kind of a pairing (R108). -/
inductive PairKind where
  | out | autoClose | split
deriving DecidableEq, Repr

/-- Mathematical ceiling of a quotient (R110). -/
def ceilDiv (a b : Int) : Int := -((-a) / b)

/-- The parameters a pairing reads when it is made (R29, R109). -/
structure PayTables where
  shift : Shift
  crew : Crew
  rate : Rate
deriving DecidableEq, Repr

/-- The tables in force for a worker's attendance: the captured shift or shift 0, the present crew and rate class
(R109). -/
def State.payTables (s : State) (w : Worker) (a : Attendance) : PayTables :=
  ⟨s.shift (match a.scheduled with | some c => c.shift | none => 0), s.crew w.crew, s.rate w.rateClass⟩

/-- The grid anchor (R109). -/
def Attendance.anchor (a : Attendance) : Int :=
  match a.scheduled with
  | some c => c.start
  | none => 86400 * a.dayKey

/-- Stage 1: the rounded in time (R110). -/
def roundIn (r : Shift) (a : Attendance) : Int :=
  let grid := a.anchor + 60 * r.quantum * ceilDiv (a.inTime - a.anchor) (60 * r.quantum)
  if a.carried then a.inTime
  else
    match a.scheduled with
    | some c =>
      if (c.start : Int) - 60 * r.earlyGrace ≤ a.inTime ∧ a.inTime ≤ c.start + 60 * r.lateGrace then c.start else grid
    | none => grid

/-- Stage 1: the rounded out time (R111). -/
def roundOut (kind : PairKind) (r : Shift) (a : Attendance) (rawOut : Nat) : Int :=
  let grid := a.anchor + 60 * r.quantum * (((rawOut : Int) - a.anchor) / (60 * r.quantum))
  match kind, a.scheduled with
  | .split, _ => rawOut
  | .autoClose, some c => c.stop
  | .autoClose, none => roundIn r a
  | .out, some c =>
    if (c.stop : Int) - 60 * r.exitGrace ≤ rawOut ∧ rawOut ≤ c.stop + 60 * r.exitGrace then c.stop else grid
  | .out, none => grid

/-- Stage 2 before the 24-hour cut (R112): the difference of the rounded times when it is positive, else 0. R112 says of
a NEGATIVE pairing, whose raw out time is earlier than its in time, that "G is then 0, as the difference gives"; but a
grace can round its times to a positive difference (so also in R134's on-demand case, when the exit grace lifts an out
from before T_close to an instance end after it). Which of the two holds then is a free value (log entry 38). -/
def grossOf (roundedIn roundedOut : Int) (inTime rawOut : Nat) : Nat :=
  let difference := (roundedOut - roundedIn).toNat
  if difference = 0 then 0
  else if rawOut < inTime then if Config.negativeIsZero inTime rawOut then 0 else difference
  else difference

/-- The seconds that two spans share. -/
def overlap (a b c d : Int) : Nat := (min b d - max a c).toNat

/-- The night window of day `d` as a span (R21); no window when start and end are equal. -/
def State.nightWindow (s : State) (d : Int) : Int × Int :=
  let b := d * 86400 + 60 * s.part.nightStart
  if s.part.nightEnd = s.part.nightStart then (b, b)
  else if s.part.nightStart < s.part.nightEnd then (b, d * 86400 + 60 * s.part.nightEnd)
  else (b, (d + 1) * 86400 + 60 * s.part.nightEnd)

/-- The seconds of a span that lie in the night windows of the days from its first day less one to the day of its end
(R115). A day below 0 (the day less one of a span that begins on day 0) or above 49,710 (that of an instance end above
the largest gate time) is no day number, and R21 gives windows to day numbers: whether its window counts is a free value,
DESIGN CHOICE, log entry 9. -/
def State.nightSeconds (s : State) (start stop : Int) : Nat :=
  let first := start / 86400
  let days := (List.range (stop / 86400 - first + 2).toNat).map fun k => first - 1 + (k : Int)
  (days.map fun d =>
    let w := s.nightWindow d
    let n := overlap start stop w.1 w.2
    if 0 ≤ d ∧ d ≤ Config.lastDay then n
    else if n = 0 then 0
    else if (if d < 0 then Config.nightBeforeDayZero else Config.nightPastLastDay) then n else 0).sum

/-- The minutes of a tally after any re-keying to `key` (R116, R117). -/
def tallyMinutes (t : Option Tally) (key : Nat) : Nat :=
  match t with
  | some y => if y.key = key then y.minutes else 0
  | none => 0

/-- Stage 6, daily limits (R116): regular, OT1 and OT2 minutes of `w` worked minutes after `d0` minutes of the day. -/
def splitDay (c : Crew) (d0 w : Nat) : Nat × Nat × Nat :=
  let r := min w (c.dr - d0)
  let o1 := min (w - r) (c.dl - max d0 c.dr)
  (r, o1, w - r - o1)

/-- Stage 6, weekly limit (R117): regular minutes beyond the weekly room become OT1. -/
def splitWeek (c : Crew) (w0 : Nat) (m : Nat × Nat × Nat) : Nat × Nat × Nat :=
  let room := c.wr - w0
  if m.1 ≤ room then m else (room, m.2.1 + (m.1 - room), m.2.2)

/-- Stage 7: the pay in mils (R118). -/
def payOf (r : Rate) (regular ot1 ot2 night : Nat) : Nat :=
  regular * r.base + ((ot1 * r.m1 + ot2 * r.m2) * r.base + 50) / 100 + night * r.premium

/-- The results of a pairing's stages 1 to 7. -/
structure PayLine where
  roundedIn : Int
  roundedOut : Int
  gross : Nat
  worked : Nat
  regular : Nat
  ot1 : Nat
  ot2 : Nat
  night : Nat
  pay : Nat
  breakTaken : Bool
  long : Bool
  negative : Bool
deriving DecidableEq, Repr

/-- Stages 1 to 7 of a pairing (R110 to R118). The gross of a NEGATIVE one, which R112 gives two ways (R134 too has
such a case), is that of `grossOf`: a free value, DESIGN CHOICE, log entry 38. -/
def State.computePay (s : State) (w : Worker) (a : Attendance) (kind : PairKind) (rawOut : Nat) : PayLine :=
  let p := s.payTables w a
  let rin := roundIn p.shift a
  let rout := roundOut kind p.shift a rawOut
  let raw := grossOf rin rout a.inTime rawOut
  let negative := decide (rawOut < a.inTime)
  let gross := min raw 86400
  let takes := !a.breakTaken && decide (0 < p.shift.break_)
    && decide (60 * p.shift.threshold ≤ a.carriedGross + gross)
  let worked := (if takes then gross - 60 * p.shift.break_ else gross) / 60
  let night := min (s.nightSeconds rin (rin + gross) / 60) worked
  let day := splitDay p.crew (tallyMinutes w.dayTally a.dayKey) worked
  let m := splitWeek p.crew (tallyMinutes w.weekTally (s.weekIndex a.dayKey)) day
  { roundedIn := rin, roundedOut := rout, gross := gross, worked := worked, regular := m.1, ot1 := m.2.1,
    ot2 := m.2.2, night := night, pay := payOf p.rate m.1 m.2.1 m.2.2 night, breakTaken := a.breakTaken || takes,
    long := decide (86400 < raw), negative := negative }

/-- Stage 8: a bank with a pairing added, each count saturating at its maximum (R119). -/
def Bank.add (b : Bank) (l : PayLine) : Bank :=
  ⟨min (b.regular + l.regular) 65535, min (b.ot1 + l.ot1) 65535, min (b.ot2 + l.ot2) 65535,
    min (b.night + l.night) 65535, min (b.pay + l.pay) 4294967295, min (b.pairings + 1) 65535⟩

/-- Whether a count could not take the whole addition (R119). -/
def Bank.saturates (b : Bank) (l : PayLine) : Bool :=
  decide (65535 < b.regular + l.regular) || decide (65535 < b.ot1 + l.ot1) || decide (65535 < b.ot2 + l.ot2)
    || decide (65535 < b.night + l.night) || decide (4294967295 < b.pay + l.pay) || decide (65535 < b.pairings + 1)

/-- The record after a pairing: the tallies written (R116, R117), the live bank added to, and the attendance removed or,
for a SPLIT, carried from T_close (R119). -/
def Worker.paired (w : Worker) (a : Attendance) (kind : PairKind) (rawOut week : Nat) (l : PayLine) : Worker :=
  { w with
    attendance :=
      match kind with
      | .split =>
        some { a with
          inTime := rawOut, carried := true, carriedGross := min (a.carriedGross + l.gross) 86400,
          breakTaken := l.breakTaken }
      | _ => none
    dayTally := some ⟨a.dayKey, min (tallyMinutes w.dayTally a.dayKey + l.worked) 65535⟩
    weekTally := some ⟨week, min (tallyMinutes w.weekTally week + l.regular) 65535⟩
    live := w.live.add l }

/-- The flags of a pairing's PAYLINE (R120); `presence` is the presence the caller hands. -/
def payFlags (w : Worker) (a : Attendance) (kind : PairKind) (presence : Presence) (l : PayLine) : PayFlags where
  carried := a.carried
  split := decide (kind = .split)
  missedOut := decide (kind = .autoClose)
  long := l.long
  negative := l.negative
  saturated := w.live.saturates l
  unscheduled := a.scheduled.isNone
  reentry := decide (presence = .unknown)

/-- The PAYLINE entry of a pairing (R120). -/
def paylineBody (i : Nat) (l : PayLine) (f : PayFlags) : EntryBody :=
  .payline i l.roundedIn l.roundedOut l.regular l.ot1 l.ot2 l.night l.pay f

/-- A pairing of worker `i` (R108): stages 1 to 8, the end of the attendance by its kind, and the PAYLINE entry. A record
without an open attendance is not paired. -/
def makePairing (i : Nat) (kind : PairKind) (rawOut : Nat) (presence : Presence) (s : State) : State :=
  let w := s.worker i
  match w.attendance with
  | none => s
  | some a =>
    let l := s.computePay w a kind rawOut
    offerEntry (paylineBody i l (payFlags w a kind presence l))
      (s.setWorker i (w.paired a kind rawOut (s.weekIndex a.dayKey) l))

/-! ## Totals (section 6.9) -/

/-- The holding entry that TOTALS LATCH writes for a record (R122); a FREE record gives zero counts. -/
def State.latched (s : State) (i : Nat) : Holding :=
  ⟨if (s.worker i).inUse then (s.worker i).live else Bank.zero, stampOf s.now⟩

/-- TOTALS LATCH (R122): the selector is a worker index or ALL, 65,535. -/
def totalsLatch (selector : Half) (s : State) : Answer :=
  let n := selector.toNat
  if n < Config.workerCount then
    ⟨{ s with holding := Table.set Holding.never s.holding n (s.latched n) }, .ok, stampBytes (stampOf s.now)⟩
  else if n = 65535 then
    ⟨{ s with holding := (List.range Config.workerCount).map fun i => (i, s.latched i) }, .ok,
      stampBytes (stampOf s.now)⟩
  else answer .badIndex s

/-- TOTALS READ (R123). -/
def totalsRead (first : Half) (count : Byte) (s : State) : Answer :=
  if badRun first count Config.workerCount then answer .badIndex s
  else
    returns
      (runBytes (fun i => stampBytes (s.holdingEntry i).stamp ++ (s.holdingEntry i).bank.bytes) first.toNat
        (count.toNat + 1)) s

/-- CLOSED READ (R124). -/
def closedRead (first : Half) (count : Byte) (s : State) : Answer :=
  if badRun first count Config.workerCount then answer .badIndex s
  else
    returns
      (runBytes
        (fun i => (s.worker i).closed.bytes ++ [(s.worker i).closedGen] ++ be32 (s.worker i).closedAt) first.toNat
        (count.toNat + 1)) s

/-- TOTALS_LATCH. -/
def execTotalsLatch (tag : Byte) (selector : Half) (s : State) : Host.Outcome State Fault Refusal :=
  .next (takeRequest (.totalsLatch tag selector) (totalsLatch selector) s)

/-- TOTALS_READ. -/
def execTotalsRead (tag : Byte) (first : Half) (count : Byte) (s : State) : Host.Outcome State Fault Refusal :=
  .next (takeRequest (.totalsRead tag first count) (totalsRead first count) s)

/-- CLOSED_READ. -/
def execClosedRead (tag : Byte) (first : Half) (count : Byte) (s : State) : Host.Outcome State Fault Refusal :=
  .next (takeRequest (.closedRead tag first count) (closedRead first count) s)

end Sys2Proof.Machine
end

