-- ==== Sys2Proof/Machine/Close.lean ====
section
/-! DEFINITION. The period close (chapter 7): requests, gather expiry, the walk, the record close, and the on-demand
close that precedes an OUT or AUTO-CLOSE pairing. -/

namespace Sys2Proof.Machine

/-- A record close (R133): an attendance from before T_close is split there, the live bank moves to the closed bank, and
the close mark becomes g. `presence` is the presence handed to the split. -/
def recordClose (i : Nat) (presence : Presence) (s : State) : State :=
  let splits := match (s.worker i).attendance with
    | some a => decide (a.inTime < s.close.tClose)
    | none => false
  let s1 := if splits then makePairing i .split s.close.tClose presence s else s
  let w := s1.worker i
  let s2 := s1.setWorker i
    { w with closed := w.live, closedGen := s.close.gen, closedAt := s.close.tClose, live := Bank.zero,
             closeMark := s.close.gen }
  { s2 with close :=
      { s2.close with
        closed := s2.close.closed + 1
        split := if splits then s2.close.split + 1 else s2.close.split } }

/-- The close reaches a record and decides it by the first line of R132's table that holds. -/
def reachRecord (i : Nat) (presence : Presence) (s : State) : State :=
  let w := s.worker i
  if w.status = .free then s
  else if w.closeMark = s.close.gen then s
  else if !s.close.crews.getLsbD w.crew then s.setWorker i { w with closeMark := s.close.gen }
  else if w.payhold then
    let s1 := s.setWorker i { w with closeMark := s.close.gen }
    { s1 with close := { s1.close with skipped := s1.close.skipped + 1 } }
  else recordClose i presence s

/-- The Pay Engine is called for an OUT or AUTO-CLOSE pairing: while a close walks, the record is reached first (R134),
then the pairing is made. `presence` is the presence as it stood before the calling event (R108; log entry 15). -/
def callPairing (i : Nat) (kind : PairKind) (rawOut : Nat) (presence : Presence) (s : State) : State :=
  makePairing i kind rawOut presence (if s.close.phase = .walking then reachRecord i presence s else s)

/-- The gather timer's ticks from the gather window as it stands (R127). -/
def State.gatherTicks (s : State) : Nat := 10 * s.part.gatherWindow

/-- PERIOD CLOSE (R127). -/
def periodClose (crews : Half) (s : State) : Answer :=
  if crews = 0#16 then answer .badValue s
  else
    match s.close.phase with
    | .idle =>
      answer .ok
        { s with close := { s.close with phase := .gathering, crews := crews, gatherTimer := some s.gatherTicks } }
    | .gathering =>
      answer .ok { s with close := { s.close with crews := s.close.crews ||| crews, gatherTimer := some s.gatherTicks } }
    | .walking => answer .busy s
    | .suspended => answer .busy s

/-- CLOSE CANCEL (R128). -/
def closeCancel (s : State) : Answer :=
  match s.close.phase with
  | .gathering => answer .ok { s with close := { s.close with phase := .idle, gatherTimer := none } }
  | _ => answer .notPermitted s

/-- CLOSE STATUS (R138). -/
def closeStatus (s : State) : Answer :=
  let c := s.close
  returns
    (be8 c.phase.code ++ be16 c.crews.toNat ++ [c.gen] ++ be32 c.tClose ++ be16 c.walkIndex ++ be16 c.closed
      ++ be16 c.skipped ++ be16 c.split ++ be8 c.lastResult.code) s

/-- The close begins at gather expiry with the clock SET (R129). -/
def beginClose (s : State) : State :=
  let c : CloseState :=
    { s.close with
      gen := s.close.gen + 1, tClose := s.clock.gateTime, walkIndex := 0, closed := 0, skipped := 0, split := 0,
      phase := if s.evac.evacuating then .suspended else .walking, gatherTimer := none }
  offerEntry (.closeStart c.gen c.crews c.tClose) { s with close := c }

/-- The close ends at gather expiry while the clock is UNSET (R130). -/
def endUnset (s : State) : State :=
  flagCloseDone { s with close := { s.close with phase := .idle, lastResult := .clockUnset, gatherTimer := none } }

/-- Gather expiry (R129, R130), when the gather timer has run out. -/
def gatherExpiry (s : State) : State :=
  if s.running ∧ s.close.phase = .gathering ∧ s.close.gatherTimer = some 0 then
    if s.clock.valid then beginClose s else endUnset s
  else s

/-- The end of the walk (R136). -/
def endWalk (s : State) : State :=
  let s1 := { s with close := { s.close with phase := .idle, lastResult := .complete } }
  let c := s1.close
  flagCloseDone (offerEntry (.closeDone c.gen c.crews c.tClose c.closed c.skipped c.split) s1)

/-- A walk step (R131): the record at the walk index is reached and the index rises by one; after index 4095 the walk
ends. No step is taken in another phase. -/
def walkStep (s : State) : State :=
  if s.running ∧ s.close.phase = .walking ∧ s.close.walkIndex < Config.workerCount then
    let i := s.close.walkIndex
    let s1 := reachRecord i (s.worker i).presence s
    let s2 := { s1 with close := { s1.close with walkIndex := i + 1 } }
    if i + 1 = Config.workerCount then endWalk s2 else s2
  else s

/-- PERIOD_CLOSE. -/
def execPeriodClose (tag : Byte) (crews : Half) (s : State) : Host.Outcome State Fault Refusal :=
  .next (takeRequest (.periodClose tag crews) (periodClose crews) s)

/-- CLOSE_CANCEL. -/
def execCloseCancel (tag : Byte) (s : State) : Host.Outcome State Fault Refusal :=
  .next (takeRequest (.closeCancel tag) closeCancel s)

/-- CLOSE_STATUS. -/
def execCloseStatus (tag : Byte) (s : State) : Host.Outcome State Fault Refusal :=
  .next (takeRequest (.closeStatus tag) closeStatus s)

/-- GATHER_TIMER_EXPIRY. -/
def execGatherTimerExpiry (s : State) : Host.Outcome State Fault Refusal := .next (gatherExpiry s)

/-- WALK_STEP. -/
def execWalkStep (s : State) : Host.Outcome State Fault Refusal := .next (walkStep s)

end Sys2Proof.Machine
end

