-- ==== Sys2Proof/Machine/Workers.lean ====
section
/-! DEFINITION. The Worker Table and the Badge Map (chapter 3): their requests, the lookup of a badge code. -/

namespace Sys2Proof.Machine

/-! ## The Badge Map -/

/-- A badge code that is malformed: 0 or 4,294,967,295 (R51, R84). -/
def badCode (code : Nat) : Bool := decide (code = 0) || decide (code = 4294967295)

/-- The worker index of the entry holding a code (R53). -/
def State.lookup (s : State) (code : Nat) : Option Nat :=
  match s.badges.find? (fun e => decide (e.1 = code)) with
  | some e => some e.2
  | none => none

/-- The map with an entry at the position that keeps the codes ascending (R51). -/
def insertBadge (code worker : Nat) : List (Nat × Nat) → List (Nat × Nat)
  | [] => [(code, worker)]
  | e :: t => if code < e.1 then (code, worker) :: e :: t else e :: insertBadge code worker t

/-- BADGE ADD (R51). -/
def badgeAdd (code : Word) (index : Half) (s : State) : Answer :=
  if badCode code.toNat then answer .badValue s
  else if Config.workerCount ≤ index.toNat then answer .badIndex s
  else if !(s.worker index.toNat).inUse then answer .notPermitted s
  else if (s.lookup code.toNat).isSome then answer .duplicate s
  else if Config.badgeCap ≤ s.badges.length then answer .full s
  else answer .ok { s with badges := insertBadge code.toNat index.toNat s.badges }

/-- BADGE REMOVE (R52). -/
def badgeRemove (code : Word) (s : State) : Answer :=
  if badCode code.toNat then answer .badValue s
  else if (s.lookup code.toNat).isNone then answer .notFound s
  else answer .ok { s with badges := s.badges.filter fun e => decide (e.1 ≠ code.toNat) }

/-- BADGE FIND (R54). -/
def badgeFind (code : Word) (s : State) : Answer :=
  if badCode code.toNat then answer .badValue s
  else
    match s.lookup code.toNat with
    | some i => returns (be16 i) s
    | none => answer .notFound s

/-- A position of the map as BADGE READ returns it: an empty one as code 0 and index 65,535 (R203). -/
def badgeBytes (s : State) (position : Nat) : List Byte :=
  match s.badges[position]? with
  | some e => be32 e.1 ++ be16 e.2
  | none => be32 0 ++ be16 65535

/-- BADGE READ (R54). -/
def badgeRead (first : Half) (count : Byte) (s : State) : Answer :=
  if badRun first count Config.badgeCap then answer .badIndex s
  else returns (be16 s.badges.length ++ runBytes (badgeBytes s) first.toNat (count.toNat + 1)) s

/-! ## Worker records -/

/-- WORKER SET (R45, R46): on a FREE record it puts a fresh record in use, with the close mark of the current
generation; on a record in use it replaces status, crew, rate class and flags. -/
def workerSet (index : Half) (status crew rateClass flags : Byte) (s : State) : Answer :=
  let i := index.toNat
  if Config.workerCount ≤ i then answer .badIndex s
  else
    match statusOf status with
    | none => answer .badValue s
    | some st =>
      if 15 < crew.toNat ∨ 15 < rateClass.toNat then answer .badValue s
      else
        let w := s.worker i
        let base := if w.inUse then w else { Worker.zeroed with closeMark := s.close.gen }
        answer .ok
          (s.setWorker i
            { base with
              status := st, crew := crew.toNat, rateClass := rateClass.toNat, anytime := flags.getLsbD 0,
              payhold := flags.getLsbD 1 })

/-- Whether a lane in RELEASED holds a punch that names a worker (R47). -/
def State.heldByLane (s : State) (i : Nat) : Bool :=
  laneNumbers.any fun n =>
    match (s.lane n).punch with
    | some p => decide ((s.lane n).state = .released) && decide (p.worker = i)
    | none => false

/-- WORKER FREE (R47). -/
def workerFree (index : Half) (s : State) : Answer :=
  let i := index.toNat
  if Config.workerCount ≤ i then answer .badIndex s
  else
    let w := s.worker i
    if !w.inUse then answer .ok s
    else if w.presence = .inside ∨ w.attendance.isSome ∨ w.muster = .unaccounted then answer .notPermitted s
    else if s.heldByLane i then answer .busy s
    else
      answer .ok
        { s.setWorker i Worker.zeroed with badges := s.badges.filter fun e => decide (e.2 ≠ i) }

/-- The record after PRESENCE SET: OUTSIDE voids an open attendance, and an unaccounted worker is accounted (R48). -/
def Worker.overridden (w : Worker) (p : Presence) : Worker :=
  { w with
    attendance := if p = .outside then none else w.attendance
    muster := if w.muster = .unaccounted then .accounted else w.muster }

/-- The unaccounted count after a record's mark leaves UNACCOUNTED (R177). -/
def unaccountedAfter (count : Nat) (m : Mark) : Nat := if m = .unaccounted then count - 1 else count

/-- PRESENCE SET (R48). -/
def presenceSet (index : Half) (presence : Byte) (s : State) : Answer :=
  let i := index.toNat
  if Config.workerCount ≤ i then answer .badIndex s
  else
    match presenceOf presence with
    | none => answer .badValue s
    | some p =>
      let w := s.worker i
      if !w.inUse then answer .notPermitted s
      else
        let s1 := setPresence i p s
        let s2 := s1.setWorker i ((s1.worker i).overridden p)
        let s3 := { s2 with evac := { s2.evac with unaccounted := unaccountedAfter s2.evac.unaccounted w.muster } }
        answer .ok (offerEntry (.override_ i w.presence p (decide (p = .outside) && w.attendance.isSome)) s3)

/-- WORKER READ (R49). -/
def workerRead (first : Half) (count : Byte) (s : State) : Answer :=
  if badRun first count Config.workerCount then answer .badIndex s
  else returns (runBytes (fun i => (s.worker i).bytes) first.toNat (count.toNat + 1)) s

/-- WORKER_SET. -/
def execWorkerSet (tag : Byte) (index : Half) (status crew rateClass flags : Byte) (s : State) :
    Host.Outcome State Fault Refusal :=
  .next (takeRequest (.workerSet tag index status crew rateClass flags) (workerSet index status crew rateClass flags) s)

/-- WORKER_FREE. -/
def execWorkerFree (tag : Byte) (index : Half) (s : State) : Host.Outcome State Fault Refusal :=
  .next (takeRequest (.workerFree tag index) (workerFree index) s)

/-- PRESENCE_SET. -/
def execPresenceSet (tag : Byte) (index : Half) (presence : Byte) (s : State) : Host.Outcome State Fault Refusal :=
  .next (takeRequest (.presenceSet tag index presence) (presenceSet index presence) s)

/-- WORKER_READ. -/
def execWorkerRead (tag : Byte) (first : Half) (count : Byte) (s : State) : Host.Outcome State Fault Refusal :=
  .next (takeRequest (.workerRead tag first count) (workerRead first count) s)

/-- BADGE_ADD. -/
def execBadgeAdd (tag : Byte) (code : Word) (index : Half) (s : State) : Host.Outcome State Fault Refusal :=
  .next (takeRequest (.badgeAdd tag code index) (badgeAdd code index) s)

/-- BADGE_REMOVE. -/
def execBadgeRemove (tag : Byte) (code : Word) (s : State) : Host.Outcome State Fault Refusal :=
  .next (takeRequest (.badgeRemove tag code) (badgeRemove code) s)

/-- BADGE_FIND. -/
def execBadgeFind (tag : Byte) (code : Word) (s : State) : Host.Outcome State Fault Refusal :=
  .next (takeRequest (.badgeFind tag code) (badgeFind code) s)

/-- BADGE_READ. -/
def execBadgeRead (tag : Byte) (first : Half) (count : Byte) (s : State) : Host.Outcome State Fault Refusal :=
  .next (takeRequest (.badgeRead tag first count) (badgeRead first count) s)

end Sys2Proof.Machine
end

