-- ==== Sys2Proof/Machine/Admission.lean ====
section
/-! DEFINITION. Admission and passage (chapter 5): the evaluation of a punch, the commit, an UNUSED punch, attendance
expiry, and the muster punch (R178). -/

namespace Sys2Proof.Machine

/-! ## Attendance expiry (R40, R102) -/

/-- The expiry of worker `i`'s open attendance: an AUTO-CLOSE pairing with the deadline as raw out time, then presence
UNKNOWN (R102). -/
def expire (i : Nat) (s : State) : State :=
  match (s.worker i).attendance with
  | none => s
  | some a => setPresence i .unknown (callPairing i .autoClose a.deadline (s.worker i).presence s)

/-- The worker indices, ascending, whose attendance's deadline is at or before the gate time (R40). -/
def State.dueExpiries (s : State) : List Nat :=
  (s.workers.filter fun e =>
    match e.2.attendance with
    | some a => decide (a.deadline ≤ s.clock.gateTime)
    | none => false).map fun e => e.1

/-- The Worker Table compares every deadline with the gate time and takes the expiries due; they are deferred while the
part is evacuating, and none exists while the clock is UNSET (R40, R179). -/
def takeExpiries (s : State) : State :=
  if s.clock.valid ∧ ¬ s.evac.evacuating then s.dueExpiries.foldl (fun t i => expire i t) s else s

/-! ## Evaluation (R83 to R93) -/

/-- The direction of a punch (R85). -/
def State.punchDirection (s : State) (lane : Nat) (found : Option Nat) (key : HeadKey) : Direction :=
  match (s.laneRecord lane).direction, key with
  | .onlyIn, _ => .inward
  | .onlyOut, _ => .outward
  | .dual, .keyIn => .inward
  | .dual, .keyOut => .outward
  | .dual, .keyNone =>
    match found with
    | some i => if (s.worker i).presence = .inside then .outward else .inward
    | none => .inward

/-- The worker index held with a punch: no lookup for a malformed code (R84). -/
def State.found (s : State) (code : Nat) : Option Nat := if badCode code then none else s.lookup code

/-- Whether a punch is a duplicate (R86): the last punch names the same lane and lies less than the window's ticks
back, modulo the tick count's wrap. -/
def State.duplicate (s : State) (lane : Nat) (w : Worker) : Bool :=
  match w.lastPunch with
  | some l => decide (l.lane = lane) && decide ((s.clock.tickCount - l.tick).toNat < 10 * s.part.duplicateWindow)
  | none => false

/-- What the evaluation order gives (R87). -/
inductive Judgement where
  | accept (p : ReleasedPunch)
  | refuse (r : Reason)
  | ignored
  | muster
deriving DecidableEq, Repr

/-- Steps 6 to 11 of the evaluation order, for an IN of worker `i` (R87 to R90). -/
def State.judgeIn (s : State) (lane code i : Nat) : Judgement :=
  let w := s.worker i
  let soft := if w.presence = .inside then some Soft.softPassback else none
  if w.status = .suspended then .refuse .suspended
  else if !(s.laneRecord lane).crewMask.getLsbD w.crew then .refuse .notThisLane
  else if s.journalFull && !s.part.wrap then .refuse .journalFull
  else if w.presence = .inside ∧ (s.crew w.crew).passback = .hard then .refuse .passback
  else
    match s.now with
    | none => .accept ⟨code, i, .inward, none, none, soft⟩
    | some t =>
      if w.anytime then .accept ⟨code, i, .inward, some t, none, soft⟩
      else
        match s.resolve w.crew t with
        | none => .refuse .outOfShift
        | some c => .accept ⟨code, i, .inward, some t, some c, soft⟩

/-- The evaluation order (R87). -/
def State.judge (s : State) (lane code : Nat) (key : HeadKey) : Judgement :=
  if badCode code then .refuse .malformed
  else if s.evac.evacuating then .muster
  else if (s.lane lane).mode = .locked then .refuse .laneLocked
  else
    match s.lookup code with
    | none => .refuse .unknownBadge
    | some i =>
      let w := s.worker i
      if s.duplicate lane w then .ignored
      else
        match s.punchDirection lane (some i) key with
        | .outward =>
          .accept ⟨code, i, .outward, s.now, none, if w.presence = .outside then some .passbackOut else none⟩
        | .inward => s.judgeIn lane code i

/-- The refusals at steps 6 to 10, which come after the duplicate check and so write the last punch (R86). -/
def Reason.stamps : Reason → Bool
  | .suspended | .notThisLane | .journalFull | .passback | .outOfShift => true
  | .malformed | .laneLocked | .unknownBadge => false

/-- The last punch is written with the lane and the present tick count (R86). -/
def stampPunch (lane i : Nat) (s : State) : State :=
  s.setWorker i { s.worker i with lastPunch := some ⟨lane, s.clock.tickCount⟩ }

/-! ## PUNCH entries -/

/-- No flag. -/
def PunchFlags.none : PunchFlags := ⟨false, false, false, false, false, false, false⟩

/-- The soft flag of a punch (R89). -/
def softFlags : Option Soft → PunchFlags
  | some .softPassback => { PunchFlags.none with softPassback := true }
  | some .passbackOut => { PunchFlags.none with passbackOut := true }
  | Option.none => PunchFlags.none

/-- The PUNCH entry of a refusal (R91). -/
def refusedBody (s : State) (lane code : Nat) (key : HeadKey) (r : Reason) : EntryBody :=
  .punch .never lane code (s.found code) (s.punchDirection lane (s.found code) key) .rejected (some r) PunchFlags.none

/-- The PUNCH entry of a released punch, committed or given up (R96, R101). -/
def punchBody (lane : Nat) (p : ReleasedPunch) (o : PunchOutcome) (f : PunchFlags) : EntryBody :=
  .punch (stampOf p.verdictTime) lane p.code (some p.worker) p.direction o none f

/-- A released punch is given up as UNUSED (R96). -/
def punchUnused (lane : Nat) (p : ReleasedPunch) (s : State) : State :=
  offerEntry (punchBody lane p .unused (softFlags p.soft)) s

/-! ## Commit (R97 to R101) -/

/-- The commit of an IN (R98, R99). -/
def commitIn (lane : Nat) (p : ReleasedPunch) (freeLane : Bool) (s : State) : State :=
  let f := { softFlags p.soft with freeLane := freeLane }
  let s1 := setPresence p.worker .inside s
  match (s.worker p.worker).attendance, p.verdictTime with
  | some _, _ => offerEntry (punchBody lane p .admitted { f with reentry := true }) s1
  | none, some t =>
    offerEntry (punchBody lane p .admitted { f with unscheduled := p.held.isNone })
      (s1.setWorker p.worker { s1.worker p.worker with attendance := some (s1.openingAttendance t p.held) })
  | none, none => offerEntry (punchBody lane p .admitted { f with noAttendance := true }) s1

/-- The commit of an OUT (R100): presence OUTSIDE, the PUNCH entry, then the pairing of an open attendance. -/
def commitOut (lane : Nat) (p : ReleasedPunch) (freeLane : Bool) (s : State) : State :=
  let f := { softFlags p.soft with freeLane := freeLane }
  let w := s.worker p.worker
  let s1 := offerEntry (punchBody lane p .admitted { f with orphanOut := w.attendance.isNone })
    (setPresence p.worker .outside s)
  if w.attendance.isSome then callPairing p.worker .out (p.verdictTime.getD s.clock.gateTime) w.presence s1 else s1

/-- The commit of a released punch (R97). -/
def commitPunch (lane : Nat) (p : ReleasedPunch) (freeLane : Bool) (s : State) : State :=
  match p.direction with
  | .inward => commitIn lane p freeLane s
  | .outward => commitOut lane p freeLane s

/-! ## The muster punch (R106, R178) -/

/-- The MUSTER result and the mark after, for a found worker's mark. -/
def musterOf : Mark → MusterResult
  | .unaccounted => .accounted
  | .accounted => .already
  | .none => .notInRoll

/-- A muster punch: the state after it and the verdict to the head. -/
def musterPunch (lane code : Nat) (s : State) : State × Verdict :=
  match s.lookup code with
  | none => (offerEntry (.muster lane code none .unknown) s, .musterUnknown)
  | some i =>
    let w := s.worker i
    let s1 :=
      if w.muster = .unaccounted then
        let s' := s.setWorker i { w with muster := .accounted }
        { s' with evac := { s'.evac with unaccounted := s'.evac.unaccounted - 1 } }
      else s
    (offerEntry (.muster lane code (some i) (musterOf w.muster)) s1, .musterOk)

end Sys2Proof.Machine
end

