-- ==== Sys2Proof/Machine/Lanes.lean ====
section
/-! DEFINITION. The Lane Engine (chapter 4): the lane line, loss and recovery, the lane events, the lane requests, the
release output, and what enabling and disabling do. -/

namespace Sys2Proof.Machine

/-- The release timer's ticks, from the LANE record as it stands (R66). -/
def State.releaseTicks (s : State) (lane : Nat) : Nat := 10 * (s.laneRecord lane).releaseTime

/-- The held timer's ticks, from the LANE record as it stands (R68). -/
def State.heldTicks (s : State) (lane : Nat) : Nat := 10 * (s.laneRecord lane).heldTime

/-- The lane leaves RELEASED for `next`: the release timer stops and a released punch is given up as UNUSED (R59, R63,
R67, R72, R75). -/
def endRelease (lane : Nat) (next : LaneState) (s : State) : State :=
  let l := s.lane lane
  let s1 := s.setLane lane { l with state := next, releaseTimer := none, punch := none }
  match l.punch with
  | some p => punchUnused lane p s1
  | none => s1

/-- The lane goes to OPEN and its held timer starts (R68). -/
def openLane (lane : Nat) (s : State) : State :=
  s.setLane lane
    { s.lane lane with
      state := .opened, releaseTimer := none, punch := none, heldTimer := some (s.heldTicks lane) }

/-- Whether a door left unreleased is an alarm: outside evacuation, in mode NORMAL or LOCKED (R68, R70). -/
def State.guarded (s : State) (lane : Nat) : Bool :=
  !s.evac.evacuating && decide ((s.lane lane).mode ≠ .unlocked)

/-! ## The release output (R74) -/

/-- The release output of a lane; idle during a start (R205). -/
def State.releaseOutput (s : State) (lane : Nat) : Bool :=
  s.running && (s.laneRecord lane).enabled
    && (decide ((s.lane lane).state = .released) || decide ((s.lane lane).mode = .unlocked) || s.evac.evacuating
      || (decide ((s.lane lane).state = .lost) && decide ((s.laneRecord lane).fail = .opens)))

/-! ## Loss and recovery (R63, R64) -/

/-- The loss threshold (R63). -/
def State.lossThreshold (s : State) : Nat := if s.part.extendedLoss then 12 else 3

/-- The conditions after entry to LOST: LOST is set, and a lane that leaves OPEN clears FORCED and HELD (R63). -/
def lostConditions (left : LaneState) (c : LaneConditions) : LaneConditions :=
  { c with
    lost := true
    forced := c.forced && decide (left ≠ .opened)
    held := c.held && decide (left ≠ .opened) }

/-- Entry to LOST (R63). -/
def loseLane (lane : Nat) (s : State) : State :=
  let left := (s.lane lane).state
  let s1 := match left with
    | .released => endRelease lane .lost s
    | .opened => s.setLane lane { s.lane lane with state := .lost, heldTimer := none }
    | _ => s.setLane lane { s.lane lane with state := .lost }
  let s2 := s1.setLane lane { s1.lane lane with good := 0 }
  setConditions lane (lostConditions left (s2.lane lane).conditions) s2

/-- A missed reply (R63). -/
def missedReply (lane : Nat) (s : State) : State :=
  let l := s.lane lane
  let missed := min (l.missed + 1) 255
  if l.state = .lost then s.setLane lane { l with missed := missed, good := 0 }
  else
    let s1 := s.setLane lane { l with missed := missed }
    if s.lossThreshold ≤ missed then loseLane lane s1 else s1

/-- A good reply (R63, R64): the missed count becomes 0, and a LOST lane counts toward its recovery. -/
def goodReply (lane : Nat) (s : State) : State :=
  let l := s.lane lane
  if l.state = .lost then
    if 2 ≤ l.good + 1 then
      setConditions lane { l.conditions with lost := false }
        (s.setLane lane { l with state := .idle, missed := 0, good := 0, lastBit := none })
    else s.setLane lane { l with missed := 0, good := l.good + 1 }
  else s.setLane lane { l with missed := 0 }

/-! ## Frames of the part on the lane line (R61) -/

/-- The bytes of a POLL, with its acknowledgment (NONE is 2), or of a VERDICT, with result and display code (R61). -/
def LaneFrame.bytes : LaneFrame → List Byte
  | .poll none => laneFrame [1#8, 2#8]
  | .poll (some bit) => laneFrame [1#8, bitByte bit]
  | .verdict result display => laneFrame ([2#8] ++ be8 result.code ++ be8 display)

/-! ## Exchanges (R60, R62) -/

/-- Whether a reply of the lane's head can be taken: the lane's reply window is open and has not run out (R60). -/
def State.awaitsReply (s : State) (lane : Nat) : Bool :=
  s.running && decide (lane < Config.laneCount) && decide ((s.lane lane).state ≠ .disabled)
    && (match (s.lane lane).replyWindow with
      | some n => decide (0 < n)
      | none => false)

/-- The exchange ends: the window closes and the poll timer restarts at the present poll interval (R60). -/
def endExchange (lane : Nat) (s : State) : State :=
  s.setLane lane { s.lane lane with replyWindow := none, pollTimer := some s.part.pollInterval }

/-- A good event reply (R62): a repeat of the last accepted bit is discarded, and any other is taken by `act`, but
ignored while the lane is LOST (R64). Either counts as a good reply. -/
def headEvent (lane : Nat) (bit : Bool) (act : State → State) (s : State) : State :=
  if s.awaitsReply lane then
    let s0 := endExchange lane s
    let l := s0.lane lane
    if l.lastBit = some bit then goodReply lane s0
    else
      let s1 := goodReply lane (s0.setLane lane { l with lastBit := some bit })
      if l.state = .lost then s1 else act s1
  else s

/-- The poll timer expires (R60): a POLL with the acknowledgment is sent and the reply window opens. -/
def pollExpiry (lane : Nat) (s : State) : State :=
  let l := s.lane lane
  if s.running ∧ lane < Config.laneCount ∧ l.state ≠ .disabled ∧ l.pollTimer = some 0 then
    s.setLane lane
      { l with pollTimer := none, replyWindow := some (s.laneRecord lane).window, line := some (.poll l.lastBit) }
  else s

/-- A good EMPTY reply (R62). -/
def headEmpty (lane : Nat) (s : State) : State :=
  if s.awaitsReply lane then goodReply lane (endExchange lane s) else s

/-- The reply window closes without a complete reply (R60, R63). -/
def replyMissed (lane : Nat) (s : State) : State :=
  let l := s.lane lane
  if s.running ∧ lane < Config.laneCount ∧ l.state ≠ .disabled ∧ l.replyWindow = some 0 then
    missedReply lane (endExchange lane s)
  else s

/-- A bad reply (R61): a line error and a missed reply. -/
def replyBad (lane : Nat) (s : State) : State :=
  let l := s.lane lane
  if s.running ∧ lane < Config.laneCount ∧ l.state ≠ .disabled ∧ l.replyWindow.isSome then
    let s1 := endExchange lane s
    let l1 := s1.lane lane
    missedReply lane (s1.setLane lane { l1 with lineErrors := bump l1.lineErrors })
  else s

/-! ## Head events -/

/-- A VERDICT is sent on the lane's line (R61). -/
def sendVerdict (lane : Nat) (v : Verdict) (display : Nat) (s : State) : State :=
  s.setLane lane { s.lane lane with line := some (.verdict v display) }

/-- The display code of an accept (R61). -/
def displayCode (p : ReleasedPunch) : Nat := p.direction.code + if p.soft.isSome then 2 else 0

/-- The lane goes from IDLE to RELEASED with the accepted punch (R66, R94). -/
def releaseLane (lane : Nat) (p : Option ReleasedPunch) (s : State) : State :=
  s.setLane lane
    { s.lane lane with state := .released, punch := p, releaseTimer := some (s.releaseTicks lane) }

/-- A refusal (R66, R91): counted at the lane, journaled, and the last punch written at steps 6 to 10. -/
def refusePunch (lane code : Nat) (key : HeadKey) (r : Reason) (s : State) : State :=
  let s1 := match s.found code with
    | some i => if r.stamps then stampPunch lane i s else s
    | none => s
  let s2 := sendVerdict lane r.verdict 0 s1
  let l := s2.lane lane
  offerEntry (refusedBody s lane code key r) (s2.setLane lane { l with refusals := bump l.refusals })

/-- A punch is handed to the Admission Unit and the lane acts on its verdict (R65, R66, R83). -/
def evaluatePunch (lane code : Nat) (key : HeadKey) (s : State) : State :=
  match s.judge lane code key with
  | .accept p =>
    let s1 := sendVerdict lane .accept (displayCode p) (stampPunch lane p.worker s)
    if (s.lane lane).mode = .unlocked then commitPunch lane p true s1 else releaseLane lane (some p) s1
  | .refuse r => refusePunch lane code key r s
  | .ignored => sendVerdict lane .ignored 0 s
  | .muster =>
    let m := musterPunch lane code s
    sendVerdict lane m.2 0 m.1

/-- A PUNCH event taken outside LOST (R65): evaluated in IDLE, and in OPEN while evacuating; BUSY otherwise. -/
def punchTaken (lane code : Nat) (key : HeadKey) (s : State) : State :=
  match (s.lane lane).state with
  | .idle => evaluatePunch lane code key s
  | .opened => if s.evac.evacuating then evaluatePunch lane code key s else sendVerdict lane .busy 0 s
  | _ => sendVerdict lane .busy 0 s

/-- A DOOR OPEN event taken outside LOST (R68). -/
def doorOpened (lane : Nat) (s : State) : State :=
  let l := s.lane lane
  match l.state with
  | .released =>
    match l.punch with
    | some p => commitPunch lane p false (openLane lane s)
    | none => openLane lane s
  | .idle =>
    let s1 := openLane lane s
    if s.guarded lane then
      offerEntry (.door lane .forced) (setConditions lane { (s1.lane lane).conditions with forced := true } s1)
    else s1
  | _ => s

/-- A DOOR CLOSED event taken outside LOST (R69). -/
def doorClosed (lane : Nat) (s : State) : State :=
  let l := s.lane lane
  if l.state = .opened then
    setConditions lane { l.conditions with forced := false, held := false }
      (s.setLane lane { l with state := .idle, heldTimer := none })
  else s

/-- A TAMPER event taken outside LOST (R71). -/
def tamperTaken (lane : Nat) (on : Bool) (s : State) : State :=
  setConditions lane { (s.lane lane).conditions with tamper := on } s

/-! ## Timers -/

/-- The release timer expires (R67). -/
def releaseExpiry (lane : Nat) (s : State) : State :=
  let l := s.lane lane
  if s.running ∧ lane < Config.laneCount ∧ l.state = .released ∧ l.releaseTimer = some 0 then
    endRelease lane .idle s
  else s

/-- The held timer expires (R70). -/
def heldExpiry (lane : Nat) (s : State) : State :=
  let l := s.lane lane
  if s.running ∧ lane < Config.laneCount ∧ l.state = .opened ∧ l.heldTimer = some 0 then
    let s1 := s.setLane lane { l with heldTimer := none }
    if s.guarded lane then
      offerEntry (.door lane .held) (setConditions lane { l.conditions with held := true } s1)
    else s1
  else s

/-! ## LANE COMMAND (R72, R73) -/

/-- A mode command on a lane (R72). -/
def setMode (lane : Nat) (m : LaneMode) (s : State) : State :=
  let l := s.lane lane
  let s1 := s.setLane lane { l with mode := m }
  if m = .locked ∧ l.state = .released then endRelease lane .idle s1
  else if l.mode = .unlocked ∧ m ≠ .unlocked ∧ l.state = .opened then
    s1.setLane lane { s1.lane lane with heldTimer := some (s.heldTicks lane) }
  else s1

/-- LANE COMMAND NORMAL, LOCKED or UNLOCKED (R72). -/
def laneMode (lane : Byte) (m : LaneMode) (s : State) : Answer :=
  if 15 < lane.toNat then answer .badIndex s else answer .ok (setMode lane.toNat m s)

/-- LANE COMMAND PULSE (R73). -/
def lanePulse (lane : Byte) (s : State) : Answer :=
  let n := lane.toNat
  if 15 < n then answer .badIndex s
  else
    let l := s.lane n
    if l.state = .disabled ∨ l.state = .lost then answer .notPermitted s
    else if l.state = .released ∨ l.state = .opened then answer .busy s
    else if l.mode = .unlocked then answer .notPermitted s
    else if s.evac.evacuating then answer .busy s
    else answer .ok (offerEntry (.door n .manualPulse) (releaseLane n none s))

/-! ## LANE COUNTERS (R80) -/

/-- The lanes a selector names; none where it is neither a lane nor ALL. -/
def selectedLanes (selector : Byte) : Option (List Nat) :=
  if selector.toNat ≤ 15 then some [selector.toNat]
  else if selector = 255#8 then some laneNumbers
  else none

/-- LATCH of one lane. -/
def latchLane (s : State) (lane : Nat) : State :=
  let l := s.lane lane
  s.setLane lane { l with lineErrorsCopy := l.lineErrors, refusalsCopy := l.refusals }

/-- RESET of one lane. -/
def resetLane (s : State) (lane : Nat) : State :=
  s.setLane lane { s.lane lane with lineErrors := 0, refusals := 0 }

/-- LANE COUNTERS LATCH. -/
def countersLatch (selector : Byte) (s : State) : Answer :=
  match selectedLanes selector with
  | none => answer .badIndex s
  | some l => answer .ok (l.foldl latchLane s)

/-- LANE COUNTERS READ. The selector is checked first (log entry 16) and then ignored. -/
def countersRead (selector : Byte) (s : State) : Answer :=
  match selectedLanes selector with
  | none => answer .badIndex s
  | some _ => returns (laneNumbers.flatMap fun n => be16 (s.lane n).lineErrorsCopy ++ be16 (s.lane n).refusalsCopy) s

/-- LANE COUNTERS RESET. -/
def countersReset (selector : Byte) (s : State) : Answer :=
  match selectedLanes selector with
  | none => answer .badIndex s
  | some l => answer .ok (l.foldl resetLane s)

/-! ## Enabling and disabling (R58, R59) -/

/-- A LANE write has changed enabled from no to yes (R58). -/
def enableLane (lane : Nat) (s : State) : State :=
  s.setLane lane
    { s.lane lane with
      state := .idle, missed := 0, good := 0, lastBit := none, pollTimer := some s.part.pollInterval }

/-- A LANE write has changed enabled from yes to no (R59). -/
def disableLane (lane : Nat) (s : State) : State :=
  let s1 := endRelease lane .disabled s
  let s2 := s1.setLane lane
    { s1.lane lane with heldTimer := none, pollTimer := none, replyWindow := none }
  setConditions lane LaneConditions.clear s2

/-! ## Meanings -/

/-- LANE_COMMAND_NORMAL. -/
def execLaneCommandNormal (tag lane : Byte) (s : State) : Host.Outcome State Fault Refusal :=
  .next (takeRequest (.laneCommandNormal tag lane) (laneMode lane .normal) s)

/-- LANE_COMMAND_LOCKED. -/
def execLaneCommandLocked (tag lane : Byte) (s : State) : Host.Outcome State Fault Refusal :=
  .next (takeRequest (.laneCommandLocked tag lane) (laneMode lane .locked) s)

/-- LANE_COMMAND_UNLOCKED. -/
def execLaneCommandUnlocked (tag lane : Byte) (s : State) : Host.Outcome State Fault Refusal :=
  .next (takeRequest (.laneCommandUnlocked tag lane) (laneMode lane .unlocked) s)

/-- LANE_COMMAND_PULSE. -/
def execLaneCommandPulse (tag lane : Byte) (s : State) : Host.Outcome State Fault Refusal :=
  .next (takeRequest (.laneCommandPulse tag lane) (lanePulse lane) s)

/-- LANE_COUNTERS_LATCH. -/
def execLaneCountersLatch (tag selector : Byte) (s : State) : Host.Outcome State Fault Refusal :=
  .next (takeRequest (.laneCountersLatch tag selector) (countersLatch selector) s)

/-- LANE_COUNTERS_READ. -/
def execLaneCountersRead (tag selector : Byte) (s : State) : Host.Outcome State Fault Refusal :=
  .next (takeRequest (.laneCountersRead tag selector) (countersRead selector) s)

/-- LANE_COUNTERS_RESET. -/
def execLaneCountersReset (tag selector : Byte) (s : State) : Host.Outcome State Fault Refusal :=
  .next (takeRequest (.laneCountersReset tag selector) (countersReset selector) s)

/-- POLL_TIMER_EXPIRY. -/
def execPollTimerExpiry (lane : Nat) (s : State) : Host.Outcome State Fault Refusal := .next (pollExpiry lane s)

/-- HEAD_EMPTY. -/
def execHeadEmpty (lane : Nat) (s : State) : Host.Outcome State Fault Refusal := .next (headEmpty lane s)

/-- HEAD_PUNCH. -/
def execHeadPunch (lane : Nat) (bit : Bool) (code : Word) (key : HeadKey) (s : State) :
    Host.Outcome State Fault Refusal :=
  .next (headEvent lane bit (punchTaken lane code.toNat key) s)

/-- HEAD_DOOR_OPEN. -/
def execHeadDoorOpen (lane : Nat) (bit : Bool) (s : State) : Host.Outcome State Fault Refusal :=
  .next (headEvent lane bit (doorOpened lane) s)

/-- HEAD_DOOR_CLOSED. -/
def execHeadDoorClosed (lane : Nat) (bit : Bool) (s : State) : Host.Outcome State Fault Refusal :=
  .next (headEvent lane bit (doorClosed lane) s)

/-- HEAD_TAMPER_ON. -/
def execHeadTamperOn (lane : Nat) (bit : Bool) (s : State) : Host.Outcome State Fault Refusal :=
  .next (headEvent lane bit (tamperTaken lane true) s)

/-- HEAD_TAMPER_OFF. -/
def execHeadTamperOff (lane : Nat) (bit : Bool) (s : State) : Host.Outcome State Fault Refusal :=
  .next (headEvent lane bit (tamperTaken lane false) s)

/-- LANE_REPLY_BAD. -/
def execLaneReplyBad (lane : Nat) (s : State) : Host.Outcome State Fault Refusal := .next (replyBad lane s)

/-- LANE_REPLY_MISSED. -/
def execLaneReplyMissed (lane : Nat) (s : State) : Host.Outcome State Fault Refusal := .next (replyMissed lane s)

/-- RELEASE_TIMER_EXPIRY. -/
def execReleaseTimerExpiry (lane : Nat) (s : State) : Host.Outcome State Fault Refusal := .next (releaseExpiry lane s)

/-- HELD_TIMER_EXPIRY. -/
def execHeldTimerExpiry (lane : Nat) (s : State) : Host.Outcome State Fault Refusal := .next (heldExpiry lane s)

end Sys2Proof.Machine
end

