-- ==== Sys2Proof/Machine/Evacuation.lean ====
section
/-! DEFINITION. Evacuation Control (chapter 10): causes, the filtered levels, the evacuation start and its roll, the
clear, and the muster requests. -/

namespace Sys2Proof.Machine

/-- The three causes (R173). -/
inductive Cause where
  | fire | command | chain
deriving DecidableEq, Repr

/-- The cause set with a cause added. -/
def Causes.add (c : Causes) : Cause → Causes
  | .fire => { c with fire := true }
  | .command => { c with command := true }
  | .chain => { c with chain := true }

/-- The mark the roll gives a record (R177): UNACCOUNTED for one in use that is INSIDE, or UNKNOWN with an open
attendance; NONE for every other. -/
def Worker.rollMark (w : Worker) : Mark :=
  if w.inUse ∧ (w.presence = .inside ∨ w.presence = .unknown ∧ w.attendance.isSome) then .unaccounted else .none

/-- A record with the mark of a new roll. -/
def Worker.enrolled (w : Worker) : Worker := { w with muster := w.rollMark }

/-- The number of records marked UNACCOUNTED. -/
def State.unaccountedRecords (s : State) : Nat :=
  (s.workers.filter fun e => decide (e.2.muster = .unaccounted)).length

/-- The muster roll is rebuilt (R175 step 3, R177). -/
def buildRoll (s : State) : State :=
  let s1 := { s with workers := Table.update Worker.zeroed Worker.enrolled s.workers }
  let n := s1.unaccountedRecords
  { s1 with evac := { s1.evac with snapshot := stampOf s.now, rollSize := n, unaccounted := n } }

/-- A lane at evacuation start (R75): a release ends, its punch given up as UNUSED. -/
def evacuateLane (s : State) (lane : Nat) : State :=
  if (s.lane lane).state = .released then endRelease lane .idle s else s

/-- A close in WALKING becomes SUSPENDED (R137). -/
def suspendClose (s : State) : State :=
  if s.close.phase = .walking then { s with close := { s.close with phase := .suspended } } else s

/-- A close in SUSPENDED becomes WALKING (R137). -/
def resumeClose (s : State) : State :=
  if s.close.phase = .suspended then { s with close := { s.close with phase := .walking } } else s

/-- An evacuation start, in the order of R175. -/
def startEvacuation (c : Cause) (s : State) : State :=
  let s1 := { s with evac := { s.evac with evacuating := true, causes := s.evac.causes.add c } }
  let s2 := laneNumbers.foldl evacuateLane s1
  let s3 := soundTone (buildRoll s2)
  let s4 := suspendClose s3
  flagEvacuating (offerEntry (.evacStart s4.evac.causes) s4)

/-- A cause is taken (R173). -/
def takeCause (c : Cause) (s : State) : State :=
  if s.evac.evacuating then { s with evac := { s.evac with causes := s.evac.causes.add c } } else startEvacuation c s

/-- CHAIN is taken when the chain level is ACTIVE while sensing is ARMED and the drive is off (R173). -/
def takeChain (s : State) : State :=
  if s.evac.chainLevel ∧ s.evac.armed ∧ ¬ s.evac.drive then takeCause .chain s else s

/-- Whether the part pulls EVCL active: while its chain-line drive is on, and never during a start (R174, R205). -/
def State.pullsChain (s : State) : Bool := s.running && s.evac.drive

/-! ## Filtered levels (R172) -/

/-- A filtered level may change to `target`: it differs, and the two latest samples agree on `target`. -/
def levelChanges (level : Bool) (samples : Bool × Bool) (target : Bool) : Bool :=
  decide (level ≠ target) && decide (samples = (target, target))

/-- The fire level changes to ACTIVE (R173). -/
def fireActive (s : State) : State :=
  if s.running ∧ levelChanges s.evac.fireLevel s.evac.fireSamples true then
    takeCause .fire { s with evac := { s.evac with fireLevel := true } }
  else s

/-- The fire level changes to INACTIVE (R173). -/
def fireInactive (s : State) : State :=
  if s.running ∧ levelChanges s.evac.fireLevel s.evac.fireSamples false then
    { s with evac := { s.evac with fireLevel := false } }
  else s

/-- The chain level changes to ACTIVE (R173). -/
def chainActive (s : State) : State :=
  if s.running ∧ levelChanges s.evac.chainLevel s.evac.chainSamples true then
    takeChain { s with evac := { s.evac with chainLevel := true } }
  else s

/-- The chain level changes to INACTIVE: sensing becomes ARMED (R174). -/
def chainInactive (s : State) : State :=
  if s.running ∧ levelChanges s.evac.chainLevel s.evac.chainSamples false then
    { s with evac := { s.evac with chainLevel := false, armed := true } }
  else s

/-! ## Requests -/

/-- EVACUATE (R180). -/
def evacuateRequest (s : State) : Answer := answer .ok (takeCause .command s)

/-- A record at the clear: INSIDE becomes UNKNOWN (R181 step 3). -/
def Worker.cleared (w : Worker) : Worker :=
  if w.inUse ∧ w.presence = .inside then { w with presence := .unknown } else w

/-- An OPEN lane restarts its held timer from the full held time (R76). -/
def restartHeld (s : State) (lane : Nat) : State :=
  if (s.lane lane).state = .opened then
    s.setLane lane { s.lane lane with heldTimer := some (s.heldTicks lane) }
  else s

/-- The clear, in the order of R181. -/
def clearEvacuation (s : State) : State :=
  let s1 := { s with evac := { s.evac with evacuating := false, causes := Causes.empty, armed := false } }
  let s2 := { s1 with workers := Table.update Worker.zeroed Worker.cleared s1.workers, insideCount := 0 }
  let s3 := laneNumbers.foldl restartHeld s2
  let s4 := resumeClose (idleBells s3)
  let s5 := takeExpiries s4
  flagEvacuating (offerEntry .evacEnd s5)

/-- EVACUATION CLEAR (R181). -/
def evacuationClear (s : State) : Answer :=
  if s.evac.fireLevel then answer .hazardActive s
  else if !s.evac.evacuating then answer .notPermitted s
  else answer .ok (clearEvacuation s)

/-- MUSTER READ (R183). -/
def musterRead (first : Half) (count : Byte) (s : State) : Answer :=
  if badRun first count Config.workerCount then answer .badIndex s
  else
    returns
      (be8 (if s.evac.evacuating then 1 else 0) ++ be8 s.evac.causes.mask ++ flagByte s.evac.drive
        ++ be8 (if s.evac.armed then 0 else 1) ++ stampBytes s.evac.snapshot ++ be16 s.evac.rollSize
        ++ be16 s.evac.unaccounted
        ++ runBytes (fun i => be8 (s.worker i).muster.code ++ be8 (s.worker i).presence.code) first.toNat
          (count.toNat + 1)) s

/-- The indices of the records marked UNACCOUNTED at or beyond `start`, ascending (R184). -/
def State.unaccountedFrom (s : State) (start : Nat) : List Nat :=
  (s.workers.filter fun e => decide (e.2.muster = .unaccounted) && decide (start ≤ e.1)).map fun e => e.1

/-- The next index MUSTER LIST returns: the index after the last one returned, or END, 65,535 (R184). -/
def nextMuster (l : List Nat) : Nat := if 16 < l.length then l.getD 15 0 + 1 else 65535

/-- MUSTER LIST (R184). -/
def musterList (start : Half) (s : State) : Answer :=
  if Config.workerCount ≤ start.toNat then answer .badIndex s
  else
    let l := s.unaccountedFrom start.toNat
    returns
      (be16 s.evac.unaccounted ++ be8 (l.take 16).length ++ (l.take 16).flatMap be16 ++ be16 (nextMuster l)) s

/-- EVACUATE. -/
def execEvacuate (broadcast : Bool) (tag : Byte) (s : State) : Host.Outcome State Fault Refusal :=
  .next (takeRequest (.evacuate broadcast tag) evacuateRequest s)

/-- EVACUATION_CLEAR. -/
def execEvacuationClear (tag : Byte) (s : State) : Host.Outcome State Fault Refusal :=
  .next (takeRequest (.evacuationClear tag) evacuationClear s)

/-- MUSTER_READ. -/
def execMusterRead (tag : Byte) (first : Half) (count : Byte) (s : State) : Host.Outcome State Fault Refusal :=
  .next (takeRequest (.musterRead tag first count) (musterRead first count) s)

/-- MUSTER_LIST. -/
def execMusterList (tag : Byte) (start : Half) (s : State) : Host.Outcome State Fault Refusal :=
  .next (takeRequest (.musterList tag start) (musterList start) s)

/-- FIRE_ACTIVE. -/
def execFireActive (s : State) : Host.Outcome State Fault Refusal := .next (fireActive s)

/-- FIRE_INACTIVE. -/
def execFireInactive (s : State) : Host.Outcome State Fault Refusal := .next (fireInactive s)

/-- CHAIN_LEVEL_ACTIVE. -/
def execChainLevelActive (s : State) : Host.Outcome State Fault Refusal := .next (chainActive s)

/-- CHAIN_LEVEL_INACTIVE. -/
def execChainLevelInactive (s : State) : Host.Outcome State Fault Refusal := .next (chainInactive s)

end Sys2Proof.Machine
end

