-- ==== Sys2Proof/Machine/Clock.lean ====
section
/-! DEFINITION. The Gate Clock (chapter 1): the millisecond steps and the 100 ms tick with all it counts down and
samples, the second tick with slewing and the advance event, and the three time requests. -/

namespace Sys2Proof.Machine

/-! ## Millisecond steps and the 100 ms tick (R3, R4) -/

/-- A running timer after `n` of its steps; it stays at 0 until its expiry is taken. -/
def countDown (n : Nat) (t : Option Nat) : Option Nat := t.map fun k => k - n

/-- A lane after `n` millisecond steps: its poll timer and reply window (R60). -/
def Lane.afterMs (n : Nat) (l : Lane) : Lane :=
  { l with pollTimer := countDown n l.pollTimer, replyWindow := countDown n l.replyWindow }

/-- A lane after a 100 ms tick: its release and held timers (R67, R70). -/
def Lane.afterTick (l : Lane) : Lane :=
  { l with releaseTimer := countDown 1 l.releaseTimer, heldTimer := countDown 1 l.heldTimer }

/-- A cadence after a 100 ms tick: its segment timer (R164). -/
def Cadence.afterTick (c : Cadence) : Cadence := { c with timer := countDown 1 c.timer }

/-- An arbiter after a 100 ms tick. -/
def Arbiter.afterTick (a : Arbiter) : Arbiter := { a with active := a.active.map Cadence.afterTick }

/-- The clock's own part of a 100 ms tick (R3, R4): the millisecond divider returns to 0, and the second divider counts.
The tenth tick is a second tick, which falls due. -/
def Clock.tick (c : Clock) : Clock :=
  if c.secondDivider + 1 = 10 then
    { c with msDivider := 0, secondDivider := 0, secondsDue := c.secondsDue + 1 }
  else { c with msDivider := 0, secondDivider := c.secondDivider + 1 }

/-- Whether the Gate Clock counts: always, but for a start with the retained domain lost (R14, R205). -/
def State.counts (s : State) : Bool := s.running || s.power.retained

/-- The samples of a pin with a new one (R172). -/
def newSample (samples : Bool × Bool) (v : Bool) : Bool × Bool := (v, samples.1)

/-- Evacuation Control at a 100 ms tick (R172, R174). FIREn is sampled as given; EVCL is active when another part drives
it or this part does (log entry 22). Sensing becomes ARMED at a tick at which the filtered chain level is INACTIVE: for a
part that drove EVCL itself this is the second tick after its clear, where the example of section 10.6 has the first (log
entry 40, DESIGN CHOICE). -/
def Evac.tick (e : Evac) (fire chain : Bool) : Evac :=
  let chains := newSample e.chainSamples (chain || e.drive)
  { e with
    fireSamples := newSample e.fireSamples fire
    chainSamples := chains
    armed := e.armed || (!e.chainLevel && decide (chains ≠ (true, true))) }

/-- What a 100 ms tick moves in the blocks that run: the tick count (R3), the lane timers, the gather timer (R126), the
segment timers, and the samples of Evacuation Control. -/
def tickBlocks (fire chain : Bool) (s : State) : State :=
  let ms := 100 - s.clock.msDivider
  { s with
    clock := { s.clock.tick with tickCount := s.clock.tickCount + 1 }
    lanes := Table.update Lane.cold (fun l => (l.afterMs ms).afterTick) s.lanes
    arbiters := Table.update Arbiter.idle Arbiter.afterTick s.arbiters
    close := { s.close with gatherTimer := countDown 1 s.close.gatherTimer }
    evac := s.evac.tick fire chain }

/-- A 100 ms tick. During a start only the retained dividers count, and only on an intact retained domain (R14, R205). -/
def tick (fire chain : Bool) (s : State) : State :=
  if s.running then tickBlocks fire chain s
  else if s.power.retained then { s with clock := s.clock.tick }
  else s

/-- One millisecond passes that is not a 100 ms tick (R3). At a divider of 99 the next step is the tick itself, which is
the command TICK_100MS, and nothing happens here. -/
def millisecond (s : State) : State :=
  if s.counts ∧ s.clock.msDivider < 99 then
    let c : Clock := { s.clock with msDivider := s.clock.msDivider + 1 }
    if s.running then { s with clock := c, lanes := Table.update Lane.cold (Lane.afterMs 1) s.lanes }
    else { s with clock := c }
  else s

/-! ## The second tick (R5 to R7) -/

/-- Whether the next second tick is slewed (R6). -/
def Clock.slewed (c : Clock) : Bool := decide (c.slew ≠ 0) && decide (c.slewPhase + 1 = 10)

/-- The seconds a second tick asks for (R5, R6). -/
def Clock.amount (c : Clock) : Nat := if c.slewed then if 0 < c.slew then 2 else 0 else 1

/-- The clock after a second tick (R5, R6). -/
def Clock.second (c : Clock) : Clock :=
  { c with
    gateTime := capTime (c.gateTime + c.amount)
    slew := if c.slewed then if 0 < c.slew then c.slew - 1 else c.slew + 1 else c.slew
    slewPhase := if c.slew = 0 then c.slewPhase else if c.slewed then 0 else c.slewPhase + 1
    secondsDue := c.secondsDue - 1 }

/-- What an advance event causes (R7): bells fire, and due attendances expire. -/
def advanceEvent (previous new : Nat) (s : State) : State := takeExpiries (fireBells previous new s)

/-- A second tick that is due (R4, R5): gate time advances, and an advance while the clock is SET and the blocks run is an
advance event (R7, R14). -/
def secondTick (s : State) : State :=
  if s.counts ∧ 0 < s.clock.secondsDue then
    let c := s.clock.second
    let s1 := { s with clock := c }
    if s.running ∧ c.valid ∧ s.clock.gateTime < c.gateTime then advanceEvent s.clock.gateTime c.gateTime s1 else s1
  else s

/-! ## Requests (R8 to R11) -/

/-- The clock that a TIME SET leaves (R8 steps 2 to 6). -/
def Clock.setTo (c : Clock) (time offset : Nat) : Clock :=
  { c with
    gateTime := time
    weekdayOffset := offset
    valid := true
    slew := 0
    slewPhase := 0
    secondDivider := 0
    secondsDue := 0 }

/-- TIME SET (R8, R9). -/
def timeSet (time : Word) (offset : Byte) (s : State) : Answer :=
  if 6 < offset.toNat then answer .badValue s
  else
    let s1 := offerEntry (.clock s.now time.toNat) s
    answer .ok (takeExpiries { s1 with clock := s1.clock.setTo time.toNat offset.toNat })

/-- A slew amount brought to its limits (R10). -/
def clampSlew (a : Int) : Int := max (-3600) (min a 3600)

/-- TIME SLEW (R10). -/
def timeSlew (amount : Half) (s : State) : Answer :=
  if !s.clock.valid then answer .clockUnset s
  else
    answer (if clampSlew amount.toInt = amount.toInt then .ok else .clamped)
      { s with clock := { s.clock with slew := clampSlew amount.toInt, slewPhase := 0 } }

/-- TIME READ (R11). -/
def timeRead (s : State) : Answer :=
  returns
    (be32 s.clock.gateTime ++ flagByte s.clock.valid ++ be8 s.clock.weekdayOffset ++ signed16 s.clock.slew) s

/-- TIME_SET. -/
def execTimeSet (broadcast : Bool) (tag : Byte) (time : Word) (offset : Byte) (s : State) :
    Host.Outcome State Fault Refusal :=
  .next (takeRequest (.timeSet broadcast tag time offset) (timeSet time offset) s)

/-- TIME_SLEW. -/
def execTimeSlew (broadcast : Bool) (tag : Byte) (amount : Half) (s : State) : Host.Outcome State Fault Refusal :=
  .next (takeRequest (.timeSlew broadcast tag amount) (timeSlew amount) s)

/-- TIME_READ. -/
def execTimeRead (tag : Byte) (s : State) : Host.Outcome State Fault Refusal :=
  .next (takeRequest (.timeRead tag) timeRead s)

/-- TICK_100MS. -/
def execTick100ms (fire chain : Bool) (s : State) : Host.Outcome State Fault Refusal := .next (tick fire chain s)

/-- SECOND_TICK. -/
def execSecondTick (s : State) : Host.Outcome State Fault Refusal := .next (secondTick s)

end Sys2Proof.Machine
end

