-- ==== Sys2Proof/Machine/Link.lean ====
section
/-! DEFINITION. The Chain Port (chapter 11): frames received, forwarded and sent, the requests it owns (DESCRIBE, STATUS
READ, ALERT MASK, the two table requests, RESTART), and a request that no row takes. -/

namespace Sys2Proof.Machine

/-! ## Frames (R186, R187) -/

/-- The marker that opens a frame. -/
def marker : Byte := 165#8

/-- A received frame: its fields, and its bytes as they arrived. -/
structure Frame where
  address : Byte
  kind : Byte
  tag : Byte
  payload : List Byte
  raw : List Byte
deriving DecidableEq, Repr

/-- The destination: the low five bits of the address byte (R186). -/
def Frame.destination (f : Frame) : Nat := f.address.toNat % 32

/-- The upward bit: the top bit of the address byte (R186). -/
def Frame.upward (f : Frame) : Bool := f.address.getLsbD 7

/-- The bytes of a whole frame, from its marker to its CRC, as a frame; none when the CRC does not match (R187). -/
def frameOf (raw : List Byte) : Option Frame :=
  match raw with
  | m :: a :: k :: t :: d :: l :: body =>
    let payload := body.take l.toNat
    if crc16Bytes (m :: a :: k :: t :: d :: l :: payload) = body.drop l.toNat then some ⟨a, k, t, payload, raw⟩ else none
  | _ => none

/-- A receiver takes one byte (R187). `held` is what it holds of a frame, empty while it looks for a marker; it answers
what it holds then and, when a frame ends here, that frame, or none for a bad one. A length above 240 ends the frame at
once, and the next marker is looked for from the next byte on (log entry 27). -/
def receiveByte (held : List Byte) (b : Byte) : List Byte × Option (Option Frame) :=
  match held with
  | [] => (if b = marker then [b] else [], none)
  | _ :: _ =>
    let taken := held ++ [b]
    match taken[5]? with
    | none => (taken, none)
    | some l =>
      if 240 < l.toNat then ([], some none)
      else if taken.length < l.toNat + 8 then (taken, none)
      else ([], some (frameOf taken))

/-- A frame error is counted (R187). -/
def frameError (s : State) : State := { s with link := { s.link with frameErrors := bump s.link.frameErrors } }

/-- A forwarded frame finds its buffer full (R189, R190). -/
def forwardDrop (s : State) : State := { s with link := { s.link with forwardDrops := bump s.link.forwardDrops } }

/-- A frame enters the downward forwarding buffer, or is discarded and counted (R189). -/
def forwardDown (raw : List Byte) (s : State) : State :=
  if s.link.downForward.length < Config.forwardCap then
    { s with link := { s.link with downForward := s.link.downForward ++ [raw] } }
  else forwardDrop s

/-- A frame enters the upward forwarding buffer, or is discarded and counted (R190). -/
def forwardUp (raw : List Byte) (s : State) : State :=
  if s.link.upForward.length < Config.forwardCap then
    { s with link := { s.link with upForward := s.link.upForward ++ [raw] } }
  else forwardDrop s

/-- A good downward frame (R189): its own address offers it, address 31 forwards it and offers the four broadcast
kinds, any other address forwards it. -/
def goodDownward (f : Frame) (s : State) : State :=
  if f.destination = s.link.address then offerRequest ⟨false, f.kind, f.tag, f.payload⟩ s
  else if f.destination = 31 then
    let s1 := forwardDown f.raw s
    if broadcastKind f.kind then offerRequest ⟨true, f.kind, f.tag, f.payload⟩ s1 else s1
  else forwardDown f.raw s

/-- What the upward port's receiver found is handled (R187, R189). -/
def downwardArrival (s : State) (f : Option Frame) : State :=
  match f with
  | some g => if g.upward then frameError s else goodDownward g s
  | none => frameError s

/-- What the downward port's receiver found is handled (R187, R190). -/
def upwardArrival (s : State) (f : Option Frame) : State :=
  match f with
  | some g => if g.upward then forwardUp g.raw s else frameError s
  | none => frameError s

/-- One byte arrives on the upward port. -/
def downwardByte (s : State) (b : Byte) : State :=
  let r := receiveByte s.link.upPartial b
  let s1 := { s with link := { s.link with upPartial := r.1 } }
  match r.2 with
  | some f => downwardArrival s1 f
  | none => s1

/-- One byte arrives on the downward port. -/
def upwardByte (s : State) (b : Byte) : State :=
  let r := receiveByte s.link.downPartial b
  let s1 := { s with link := { s.link with downPartial := r.1 } }
  match r.2 with
  | some f => upwardArrival s1 f
  | none => s1

/-- Bytes arrive on the upward port. During a start they are lost (R205). -/
def downwardReceived (bytes : List Byte) (s : State) : State := if s.running then bytes.foldl downwardByte s else s

/-- Bytes arrive on the downward port. During a start they are lost (R205). -/
def upwardReceived (bytes : List Byte) (s : State) : State := if s.running then bytes.foldl upwardByte s else s

/-- The downward port sends the oldest frame of its buffer (R189). -/
def downwardSend (s : State) : State :=
  if s.running then
    match s.link.downForward with
    | f :: rest => { s with link := { s.link with downForward := rest, downLine := some f } }
    | [] => s
  else s

/-- A frame of the part as it leaves: own address with the upward bit, the digest of this moment, and the CRC (R186,
R193). -/
def upwardBytes (s : State) (f : UpFrame) : List Byte :=
  let covered :=
    [marker, BitVec.ofNat 8 (128 + s.link.address), f.kind, f.tag, s.digest] ++ be8 f.payload.length ++ f.payload
  covered ++ crc16Bytes covered

/-- The source the transmitter takes (R190): with frames in both, the one it did not take last. -/
def nextSource (s : State) : Option UpSource :=
  match s.link.upQueue, s.link.upForward with
  | [], [] => none
  | _ :: _, [] => some .own
  | [], _ :: _ => some .forward
  | _ :: _, _ :: _ =>
    match s.link.lastSource with
    | some .own => some .forward
    | some .forward => some .own
    | none => some (if Config.ownQueueFirst s.clock.tickCount then .own else .forward)

/-- The transmitter takes the oldest frame of a source. -/
def transmitFrom (src : UpSource) (s : State) : State :=
  match src with
  | .own =>
    match s.link.upQueue with
    | f :: rest =>
      { s with
        link := { s.link with
          upQueue := rest, upLine := some (upwardBytes s f), lastSource := some .own,
          restart := s.link.restart.map fun n => n - 1 } }
    | [] => s
  | .forward =>
    match s.link.upForward with
    | f :: rest => { s with link := { s.link with upForward := rest, upLine := some f, lastSource := some .forward } }
    | [] => s

/-- The free upward transmitter takes its next frame (R190, R193). It is not free while the RESTART reply leaves
(R207). -/
def transmit (s : State) : State :=
  if s.running ∧ s.link.restart ≠ some 0 then
    match nextSource s with
    | some src => transmitFrom src s
    | none => s
  else s

/-! ## DESCRIBE, STATUS READ, ALERT MASK (R195 to R197) -/

/-- The thirteen counts of R197. -/
def describeCounts : List Nat := [16, 4, 4096, 8192, 32, 16, 16, 64, 16, 2048, 240, 2, 8]

/-- DESCRIBE (R197). -/
def describe (s : State) : Answer :=
  returns (be16 71 ++ be16 1604 ++ be8 1 ++ be8 s.link.address ++ describeCounts.flatMap be16) s

/-- A lane in a STATUS READ reply (R203). -/
def Lane.statusBytes (l : Lane) : List Byte := be8 l.state.code ++ be8 l.conditions.mask ++ be8 l.changes.mask

/-- The data of a STATUS READ reply (R196, R203). -/
def State.statusBytes (s : State) : List Byte :=
  be16 s.insideCount ++ laneNumbers.flatMap (fun n => (s.lane n).statusBytes)
    ++ be8 (bitSet [s.journalHigh, s.journalFull, s.evac.evacuating])
    ++ be8 (bitSet [s.changes.journalHigh, s.changes.journalFull, s.changes.evacuating, s.changes.closeDone])
    ++ [s.link.alertMask] ++ flagByte s.part.alertEnable ++ be16 s.link.frameErrors ++ be16 s.link.requestDrops
    ++ be16 s.link.forwardDrops ++ be8 s.power.lastStart.code

/-- A lane with its change flags clear. -/
def Lane.unflagged (l : Lane) : Lane := { l with changes := LaneConditions.clear }

/-- Every change flag of the part clear and the three link counts 0 (R196). -/
def clearStatus (s : State) : State :=
  { s with
    lanes := Table.update Lane.cold Lane.unflagged s.lanes
    changes := { journalHigh := false, journalFull := false, evacuating := false, closeDone := false }
    link := { s.link with frameErrors := 0, requestDrops := 0, forwardDrops := 0 } }

/-- STATUS READ (R196). -/
def statusRead (clear : Byte) (s : State) : Answer :=
  match yesNo clear with
  | none => answer .badValue s
  | some c => ⟨if c then clearStatus s else s, .ok, s.statusBytes⟩

/-- ALERT MASK (R195). -/
def alertMaskSet (mask enable : Byte) (s : State) : Answer :=
  match yesNo enable with
  | none => answer .badValue s
  | some e => answer .ok { s with link := { s.link with alertMask := mask }, part := { s.part with alertEnable := e } }

/-! ## TABLE WRITE and TABLE READ (R198 to R201) -/

/-- The records of a run put in a table from index `first`. -/
def setRun {α : Type} [DecidableEq α] (d : α) (first : Nat) (l : List α) (t : Table α) : Table α :=
  match l with
  | [] => t
  | r :: rest => setRun d (first + 1) rest (Table.set d t first r)

/-- A lane after a LANE write: enabled, disabled, or left as it was (R57 to R59); `before` is the state from before the
write. -/
def laneWritten (before s : State) (lane : Nat) : State :=
  match (before.laneRecord lane).enabled, (s.laneRecord lane).enabled with
  | false, true => enableLane lane s
  | true, false => disableLane lane s
  | _, _ => s

/-- The records of a LANE run are written whole, then each lane whose enabled field changed acts, in ascending order. -/
def writeLanes (first : Nat) (l : List LaneRecord) (s : State) : State :=
  ((List.range l.length).map fun k => first + k).foldl (laneWritten s)
    { s with laneTable := setRun LaneRecord.cold first l s.laneTable }

/-- OK, or CLAMPED when a field was brought to a limit (R199). -/
def clampCode (clamped : Bool) : ReplyCode := if clamped then .clamped else .ok

/-- The refusable fields of the run are checked, and the run is written whole or refused (R199). -/
def writeRun (t : TableId) (first n : Nat) (records : List Byte) (s : State) : Answer :=
  match t with
  | .shift =>
    match readRun readShift 14 n records with
    | some l => answer .ok { s with shifts := setRun Shift.cold first l s.shifts }
    | none => answer .badValue s
  | .crew =>
    match readRun readCrew 38 n records with
    | some l => answer .ok { s with crews := setRun Crew.cold first l s.crews }
    | none => answer .badValue s
  | .rate =>
    match readRun readRate 8 n records with
    | some l => answer .ok { s with rates := setRun Rate.cold first l s.rates }
    | none => answer .badValue s
  | .schedule =>
    match readRun readBellEntry 11 n records with
    | some l => answer .ok { s with schedule := setRun BellEntry.cold first l s.schedule }
    | none => answer .badValue s
  | .pattern =>
    match readRun readPattern 9 n records with
    | some l => answer .ok { s with patterns := setRun Pattern.cold first l s.patterns }
    | none => answer .badValue s
  | .lane =>
    match readRun readLane 9 n records with
    | some l => answer (clampCode (l.any fun r => r.2)) (writeLanes first (l.map fun r => r.1) s)
    | none => answer .badValue s
  | .part =>
    match readPart records with
    | some r => answer (clampCode r.2) (updateJournalConditions s { s with part := r.1 })
    | none => answer .badValue s

/-- Whether a run leaves its table or is longer than a request may be (R199, R200). -/
def TableId.badRun (t : TableId) (first n : Nat) : Bool := decide (t.records < first + n) || decide (t.perRequest < n)

/-- TABLE WRITE (R199). -/
def tableWrite (table first count : Byte) (records : List Byte) (s : State) : Answer :=
  match tableOf table with
  | none => answer .badTable s
  | some t =>
    let n := count.toNat + 1
    if t.badRun first.toNat n then answer .badIndex s
    else if records.length ≠ n * t.size then answer .badValue s
    else writeRun t first.toNat n records s

/-- TABLE READ (R200). -/
def tableRead (table first count : Byte) (s : State) : Answer :=
  match tableOf table with
  | none => answer .badTable s
  | some t =>
    let n := count.toNat + 1
    if t.badRun first.toNat n then answer .badIndex s
    else returns ([table, first, count] ++ runBytes (recordBytes s t) first.toNat n) s

/-! ## RESTART and a request that no row takes -/

/-- RESTART (R207): the start waits for the reply, which enters the queue behind the frames now in it. -/
def restartTaken (s : State) : Answer :=
  answer .ok { s with link := { s.link with restart := some (s.link.upQueue.length + 1) } }

/-- A start begins; a cause that arises while one lasts does not change it (R205). -/
def beginStart (k : StartKind) (s : State) : State :=
  { s with power := { s.power with starting := some (s.power.starting.getD k) } }

/-- The RESTART reply has left (R207). -/
def restartReplySent (s : State) : State :=
  if s.running ∧ s.link.restart = some 0 then beginStart .warmRestart s else s

/-- The reply code of a request that no row takes: BAD_VALUE for a kind or length that names no request (R192). A LANE
COMMAND or LANE COUNTERS of the right length with an unknown command or operation has its lane or selector checked
first (R72, R80). -/
def unknownCode (r : Request) : ReplyCode :=
  match r.kind.toNat, r.payload with
  | 48, [l, _] => if 15 < l.toNat then .badIndex else .badValue
  | 49, [_, l] => if (selectedLanes l).isNone then .badIndex else .badValue
  | _, _ => .badValue

/-- A request that no row takes: nothing is handed on (R192). -/
def unknownRequest (r : Request) (s : State) : Answer := answer (unknownCode r) s

/-! ## Meanings -/

/-- DESCRIBE. -/
def execDescribe (tag : Byte) (s : State) : Host.Outcome State Fault Refusal :=
  .next (takeRequest (.describe tag) describe s)

/-- STATUS_READ. -/
def execStatusRead (tag clear : Byte) (s : State) : Host.Outcome State Fault Refusal :=
  .next (takeRequest (.statusRead tag clear) (statusRead clear) s)

/-- ALERT_MASK. -/
def execAlertMask (tag mask enable : Byte) (s : State) : Host.Outcome State Fault Refusal :=
  .next (takeRequest (.alertMask tag mask enable) (alertMaskSet mask enable) s)

/-- TABLE_WRITE. -/
def execTableWrite (tag table first count : Byte) (records : List Byte) (s : State) :
    Host.Outcome State Fault Refusal :=
  .next (takeRequest (.tableWrite tag table first count records) (tableWrite table first count records) s)

/-- TABLE_READ. -/
def execTableRead (tag table first count : Byte) (s : State) : Host.Outcome State Fault Refusal :=
  .next (takeRequest (.tableRead tag table first count) (tableRead table first count) s)

/-- RESTART. -/
def execRestart (tag : Byte) (s : State) : Host.Outcome State Fault Refusal :=
  .next (takeRequest (.restart tag) restartTaken s)

/-- UNKNOWN_REQUEST. -/
def execUnknownRequest (request : Request) (s : State) : Host.Outcome State Fault Refusal :=
  .next (takeRequest (.unknownRequest request) (unknownRequest request) s)

/-- DOWNWARD_FRAME_RECEIVED. -/
def execDownwardFrameReceived (bytes : List Byte) (s : State) : Host.Outcome State Fault Refusal :=
  .next (downwardReceived bytes s)

/-- UPWARD_FRAME_RECEIVED. -/
def execUpwardFrameReceived (bytes : List Byte) (s : State) : Host.Outcome State Fault Refusal :=
  .next (upwardReceived bytes s)

/-- DOWNWARD_FORWARD_SEND. -/
def execDownwardForwardSend (s : State) : Host.Outcome State Fault Refusal := .next (downwardSend s)

/-- UPWARD_TRANSMIT. -/
def execUpwardTransmit (s : State) : Host.Outcome State Fault Refusal := .next (transmit s)

/-- RESTART_REPLY_SENT. -/
def execRestartReplySent (s : State) : Host.Outcome State Fault Refusal := .next (restartReplySent s)

end Sys2Proof.Machine
end

