-- ==== Sys2Proof/Machine/Start.lean ====
section
/-! DEFINITION. Power, reset and starts (section 11.9): how a start begins, what the backup supply keeps, and the
completion of a start in the order of R205. -/

namespace Sys2Proof.Machine

/-- Main power arrives: the start goes on, cold when the retained domain has been lost (R205). -/
def powerUp (s : State) : State :=
  if s.power.mainPower then s
  else if s.power.retained then beginStart .warmMain { s with power := { s.power with mainPower := true } }
  else { s with power := { s.power with mainPower := true, starting := some .cold } }

/-- Main power fails: a warm start begins (R205). -/
def mainPowerLost (s : State) : State :=
  if s.power.mainPower then beginStart .warmMain { s with power := { s.power with mainPower := false } } else s

/-- RSTn goes active: a warm start begins (R205). -/
def resetInput (s : State) : State := beginStart .warmReset { s with power := { s.power with resetActive := true } }

/-- The backup supply fails while main power is absent: the retained domain is lost (R205). -/
def retainedLost (s : State) : State :=
  if s.power.mainPower then s else { s with power := { s.power with retained := false } }

/-! ## The completion of a start -/

/-- Every item of the retained domain at its cold-start value (R205). -/
def coldDomain (s : State) : State := { State.reset with power := s.power, pending := s.pending }

/-- An enabled lane's running state after a start (R81). -/
def Lane.started (pollInterval : Nat) : Lane := { Lane.cold with state := .idle, pollTimer := some pollInterval }

/-- The lanes after a start (R81). -/
def State.startedLanes (s : State) : Table Lane :=
  (laneNumbers.filter fun n => (s.laneRecord n).enabled).map fun n => (n, Lane.started s.part.pollInterval)

/-- The address the straps give: 31 selects 30 (R188). -/
def strapAddress (strap : BitVec 5) : Nat := min strap.toNat 30

/-- A worker record after a start: no last punch (R42, R56). -/
def Worker.started (w : Worker) : Worker := { w with lastPunch := none }

/-- The start values of every block (R205 step 1): R3 and R14, R56, R81, R121, R125, R170, R188, and the change flags
clear. A frame that a receiver had begun is lost, as R205 loses what arrives during a start (log entry 26). -/
def startValues (k : StartKind) (strap : BitVec 5) (s : State) : State :=
  { s with
    power := { s.power with resetActive := false, retained := true, starting := none, lastStart := k }
    clock := { s.clock with tickCount := 0 }
    workers := Table.update Worker.zeroed Worker.started s.workers
    lanes := s.startedLanes
    arbiters := []
    holding := []
    changes := { journalHigh := false, journalFull := false, evacuating := false, closeDone := false }
    link :=
      { address := strapAddress strap, requests := [], upQueue := [], upForward := [], downForward := [],
        lastSource := none, frameErrors := 0, requestDrops := 0, forwardDrops := 0, alertMask := s.link.alertMask,
        restart := none, upPartial := [], downPartial := [], upLine := none, downLine := none } }

/-- The phase of the close record after a start (R141): a close in GATHERING is abandoned, a walking one is suspended
while the part is evacuating. -/
def restoredPhase (evacuating : Bool) : ClosePhase → ClosePhase
  | .idle => .idle
  | .gathering => .idle
  | .walking => if evacuating then .suspended else .walking
  | .suspended => if evacuating then .suspended else .walking

/-- The close state record is restored from the retained evacuation phase (R141, R205 step 2). -/
def restoreClose (s : State) : State :=
  { s with close := { s.close with phase := restoredPhase s.evac.evacuating s.close.phase, gatherTimer := none } }

/-- Evacuation Control's own state at a start (R172, R185): FIRE is not retained, sensing is ARMED, and the levels are
those of the first samples. -/
def Evac.restored (e : Evac) (fire chain : Bool) : Evac :=
  { e with
    causes := { e.causes with fire := false }, armed := true, fireLevel := fire, fireSamples := (fire, fire),
    chainLevel := chain, chainSamples := (chain, chain) }

/-- Evacuation Control samples its levels and takes the causes they give (R185, R205 step 4). A retained evacuation
continues: the bells take the tone (R170) and the EVACUATING change flag sets. -/
def restoreEvacuation (fire chain : Bool) (s : State) : State :=
  let s1 := { s with evac := s.evac.restored fire chain }
  let s2 := if s1.evac.evacuating then flagEvacuating (soundTone s1) else s1
  let s3 := if fire then takeCause .fire s2 else s2
  takeChain s3

/-- The journal sets its conditions: each found set has its change flag set, with an alert (R156, R205 step 5). -/
def restoreJournal (s : State) : State := flagJournal s.journalHigh s.journalFull s

/-- The completion of a start, in the order of R205. -/
def completeStart (k : StartKind) (fire chain : Bool) (strap : BitVec 5) (s : State) : State :=
  restoreJournal (restoreEvacuation fire chain (takeExpiries (restoreClose (startValues k strap s))))

/-- A start completes once main power is present; the command says that RSTn is inactive (R205). -/
def startComplete (fire chain : Bool) (strap : BitVec 5) (s : State) : State :=
  match s.power.starting with
  | none => s
  | some k =>
    if s.power.mainPower then completeStart k fire chain strap (if k = .cold then coldDomain s else s) else s

/-- POWER_UP. -/
def execPowerUp (s : State) : Host.Outcome State Fault Refusal := .next (powerUp s)

/-- MAIN_POWER_LOST. -/
def execMainPowerLost (s : State) : Host.Outcome State Fault Refusal := .next (mainPowerLost s)

/-- RESET_INPUT_ACTIVE. -/
def execResetInputActive (s : State) : Host.Outcome State Fault Refusal := .next (resetInput s)

/-- START_COMPLETE. -/
def execStartComplete (fire chain : Bool) (strap : BitVec 5) (s : State) : Host.Outcome State Fault Refusal :=
  .next (startComplete fire chain strap s)

/-- RETAINED_DOMAIN_LOST. -/
def execRetainedDomainLost (s : State) : Host.Outcome State Fault Refusal := .next (retainedLost s)

end Sys2Proof.Machine
end

