-- ==== Sys2Proof/Machine/Dispatch.lean ====
section
/-! DEFINITION. The dispatch: one arm per command, one direct call of its meaning. -/

namespace Sys2Proof.Machine

/-- What a command does to everything but the queue of waiting commands. -/
def exec (i : Instr) (s : State) : Host.Outcome State Fault Refusal :=
  match i with
  | .describe tag => Sys2Proof.Machine.execDescribe tag s
  | .statusRead tag clear => Sys2Proof.Machine.execStatusRead tag clear s
  | .alertMask tag mask enable => Sys2Proof.Machine.execAlertMask tag mask enable s
  | .tableWrite tag table first count records => Sys2Proof.Machine.execTableWrite tag table first count records s
  | .tableRead tag table first count => Sys2Proof.Machine.execTableRead tag table first count s
  | .restart tag => Sys2Proof.Machine.execRestart tag s
  | .timeSet broadcast tag time offset => Sys2Proof.Machine.execTimeSet broadcast tag time offset s
  | .timeSlew broadcast tag amount => Sys2Proof.Machine.execTimeSlew broadcast tag amount s
  | .timeRead tag => Sys2Proof.Machine.execTimeRead tag s
  | .workerSet tag index status crew rateClass flags => Sys2Proof.Machine.execWorkerSet tag index status crew rateClass flags s
  | .workerFree tag index => Sys2Proof.Machine.execWorkerFree tag index s
  | .presenceSet tag index presence => Sys2Proof.Machine.execPresenceSet tag index presence s
  | .workerRead tag first count => Sys2Proof.Machine.execWorkerRead tag first count s
  | .badgeAdd tag code index => Sys2Proof.Machine.execBadgeAdd tag code index s
  | .badgeRemove tag code => Sys2Proof.Machine.execBadgeRemove tag code s
  | .badgeFind tag code => Sys2Proof.Machine.execBadgeFind tag code s
  | .badgeRead tag first count => Sys2Proof.Machine.execBadgeRead tag first count s
  | .laneCommandNormal tag lane => Sys2Proof.Machine.execLaneCommandNormal tag lane s
  | .laneCommandLocked tag lane => Sys2Proof.Machine.execLaneCommandLocked tag lane s
  | .laneCommandUnlocked tag lane => Sys2Proof.Machine.execLaneCommandUnlocked tag lane s
  | .laneCommandPulse tag lane => Sys2Proof.Machine.execLaneCommandPulse tag lane s
  | .laneCountersLatch tag selector => Sys2Proof.Machine.execLaneCountersLatch tag selector s
  | .laneCountersRead tag selector => Sys2Proof.Machine.execLaneCountersRead tag selector s
  | .laneCountersReset tag selector => Sys2Proof.Machine.execLaneCountersReset tag selector s
  | .totalsLatch tag selector => Sys2Proof.Machine.execTotalsLatch tag selector s
  | .totalsRead tag first count => Sys2Proof.Machine.execTotalsRead tag first count s
  | .closedRead tag first count => Sys2Proof.Machine.execClosedRead tag first count s
  | .periodClose tag crews => Sys2Proof.Machine.execPeriodClose tag crews s
  | .closeCancel tag => Sys2Proof.Machine.execCloseCancel tag s
  | .closeStatus tag => Sys2Proof.Machine.execCloseStatus tag s
  | .journalRead tag count => Sys2Proof.Machine.execJournalRead tag count s
  | .journalTrim tag count => Sys2Proof.Machine.execJournalTrim tag count s
  | .journalStatus tag clear => Sys2Proof.Machine.execJournalStatus tag clear s
  | .bellRing broadcast tag outputs pattern priority => Sys2Proof.Machine.execBellRing broadcast tag outputs pattern priority s
  | .bellSilence tag outputs => Sys2Proof.Machine.execBellSilence tag outputs s
  | .bellStatus tag => Sys2Proof.Machine.execBellStatus tag s
  | .evacuate broadcast tag => Sys2Proof.Machine.execEvacuate broadcast tag s
  | .evacuationClear tag => Sys2Proof.Machine.execEvacuationClear tag s
  | .musterRead tag first count => Sys2Proof.Machine.execMusterRead tag first count s
  | .musterList tag start => Sys2Proof.Machine.execMusterList tag start s
  | .unknownRequest request => Sys2Proof.Machine.execUnknownRequest request s
  | .downwardFrameReceived bytes => Sys2Proof.Machine.execDownwardFrameReceived bytes s
  | .upwardFrameReceived bytes => Sys2Proof.Machine.execUpwardFrameReceived bytes s
  | .downwardForwardSend => Sys2Proof.Machine.execDownwardForwardSend s
  | .upwardTransmit => Sys2Proof.Machine.execUpwardTransmit s
  | .restartReplySent => Sys2Proof.Machine.execRestartReplySent s
  | .tick100ms fire chain => Sys2Proof.Machine.execTick100ms fire chain s
  | .secondTick => Sys2Proof.Machine.execSecondTick s
  | .segmentEnd output => Sys2Proof.Machine.execSegmentEnd output s
  | .pollTimerExpiry lane => Sys2Proof.Machine.execPollTimerExpiry lane s
  | .headEmpty lane => Sys2Proof.Machine.execHeadEmpty lane s
  | .headPunch lane bit code key => Sys2Proof.Machine.execHeadPunch lane bit code key s
  | .headDoorOpen lane bit => Sys2Proof.Machine.execHeadDoorOpen lane bit s
  | .headDoorClosed lane bit => Sys2Proof.Machine.execHeadDoorClosed lane bit s
  | .headTamperOn lane bit => Sys2Proof.Machine.execHeadTamperOn lane bit s
  | .headTamperOff lane bit => Sys2Proof.Machine.execHeadTamperOff lane bit s
  | .laneReplyBad lane => Sys2Proof.Machine.execLaneReplyBad lane s
  | .laneReplyMissed lane => Sys2Proof.Machine.execLaneReplyMissed lane s
  | .releaseTimerExpiry lane => Sys2Proof.Machine.execReleaseTimerExpiry lane s
  | .heldTimerExpiry lane => Sys2Proof.Machine.execHeldTimerExpiry lane s
  | .gatherTimerExpiry => Sys2Proof.Machine.execGatherTimerExpiry s
  | .walkStep => Sys2Proof.Machine.execWalkStep s
  | .fireActive => Sys2Proof.Machine.execFireActive s
  | .fireInactive => Sys2Proof.Machine.execFireInactive s
  | .chainLevelActive => Sys2Proof.Machine.execChainLevelActive s
  | .chainLevelInactive => Sys2Proof.Machine.execChainLevelInactive s
  | .powerUp => Sys2Proof.Machine.execPowerUp s
  | .mainPowerLost => Sys2Proof.Machine.execMainPowerLost s
  | .resetInputActive => Sys2Proof.Machine.execResetInputActive s
  | .startComplete fire chain strap => Sys2Proof.Machine.execStartComplete fire chain strap s
  | .retainedDomainLost => Sys2Proof.Machine.execRetainedDomainLost s

end Sys2Proof.Machine
end

