-- ==== Sys2Proof/Safety.lean ====
section
/-! DEFINITION. The words that claims use: when a request command is taken at once, the reply it leaves, the
ALERT frames of a change, the entry of a punch given up, and the invariants that every step keeps. -/

namespace Sys2Proof.Machine

/-! ## Taking a request -/

/-- The request of `i` is taken when its command is executed: blocks run, no RESTART waits, the request is the oldest in
the buffer or the buffer is empty, and, unless it is a broadcast, the upward queue holds 4 frames or fewer (R191,
R205, R207). -/
def Ready (i : Instr) (s : State) : Prop :=
  s.running = true ∧ s.link.restart = none
    ∧ (s.link.requests = [] ∨ s.link.requests.head? = encodeRequest i)
    ∧ ∃ r, encodeRequest i = some r ∧ (r.broadcast = true ∨ s.link.upQueue.length ≤ 4)

/-- The state with the oldest request gone from the buffer (R191). -/
def State.taken (s : State) : State := { s with link := { s.link with requests := s.link.requests.tail } }

/-- The state with a reply's frames in the upward queue (R192): kind and tag of the request, the code, and the data cut
into parts. -/
def State.reply (s : State) (kind tag : Byte) (code : ReplyCode) (data : List Byte) : State :=
  { s with
    link := { s.link with
      upQueue := s.link.upQueue ++ replyFrames ⟨false, kind, tag, []⟩ code 0 (replyParts 3 data) } }

/-- The state after a request of either form: no reply to a broadcast (R12, R192). -/
def State.replyUnless (s : State) (broadcast : Bool) (kind tag : Byte) (code : ReplyCode) (data : List Byte) : State :=
  if broadcast then s else s.reply kind tag code data

/-! ## Alerts -/

/-- The ALERT frame of one change, as R78, R151, R171 and R136 give it: none, unless the change flag `rises` from clear to
set, the condition's bit in the alert mask is set and the global alert enable is on. The frame carries the condition's
number, the lane (255 for none) and the new state (R195, R204). -/
def State.alertOf (s : State) (rises : Bool) (condition lane new : Nat) : List UpFrame :=
  if rises && s.link.alertMask.getLsbD condition && s.part.alertEnable then
    [⟨240#8, 0#8, [BitVec.ofNat 8 condition, BitVec.ofNat 8 lane, BitVec.ofNat 8 new]⟩]
  else []

/-- From `s` to `t` the frames `l` are offered to the upward queue, one after another in some order: each enters while the
queue holds fewer than 6 frames and is dropped otherwise (R193). One frame has one order; of several the spec gives none
(log entries 6 and 7). -/
def Alerts (s t : State) (l : List UpFrame) : Prop :=
  ∃ m : List UpFrame, m.Perm l ∧ t.link.upQueue = s.link.upQueue ++ m.take (6 - s.link.upQueue.length)

/-- The ALERT frames of the conditions that are set at a lane and clear, in no order: one for each whose change flag goes
from clear to set, with state CLEAR (R59, R77, R78). -/
def State.clearedAlerts (s : State) (n : Nat) : List UpFrame :=
  let l := s.lane n
  s.alertOf (!l.changes.lost && l.conditions.lost) 0 n 0 ++ s.alertOf (!l.changes.forced && l.conditions.forced) 1 n 0
    ++ s.alertOf (!l.changes.held && l.conditions.held) 2 n 0
    ++ s.alertOf (!l.changes.tamper && l.conditions.tamper) 3 n 0

/-! ## Punches given up -/

/-- The PUNCH entry of a released punch that is given up (R96, R144): its verdict time or the UNSET flag, lane, code,
worker and direction, outcome UNUSED, no reason, and its soft flag alone. -/
def unusedEntry (lane : Nat) (p : ReleasedPunch) : EntryBody :=
  .punch (match p.verdictTime with | some t => .time t | none => .unset) lane p.code (some p.worker) p.direction .unused none
    ⟨false, decide (p.soft = some Soft.softPassback), decide (p.soft = some Soft.passbackOut), false, false, false, false⟩

/-- The state after the punch that a lane holds, if any, has been offered to the journal as UNUSED (R96); the lane itself
is as it was. -/
def State.gaveUp (s : State) (lane : Nat) : State :=
  match (s.lane lane).punch with
  | some p => offerEntry (unusedEntry lane p) s
  | none => s

/-! ## Table records -/

/-- A refusable field of a record's bytes lies outside its set: SHIFT R16, CREW R18, RATE R20, BELL SCHEDULE R157, BELL
PATTERN R158, LANE R57, PART R21, R150 and R201; the places of the fields are those of R201 and R202. -/
def TableId.outside (t : TableId) (r : List Byte) : Prop :=
  let one : Nat → Nat := fun k => (r.getD k 0).toNat
  let two : Nat → Nat := fun k => nat16 (r.getD k 0) (r.getD (k + 1) 0)
  match t with
  | .shift =>
    1439 < two 0 ∨ 1439 < two 2 ∨ 240 < one 4 ∨ 60 < one 5 ∨ 60 < one 6 ∨ 60 < one 7
      ∨ one 8 ∉ [1, 5, 6, 10, 12, 15, 30] ∨ 120 < one 9 ∨ 1440 < two 10 ∨ 720 < two 12
  | .crew =>
    one 0 < 1 ∨ 28 < one 0 ∨ (∃ k, 3 ≤ k ∧ k < 31 ∧ 31 < one k ∧ one k ≠ 255) ∨ 1440 < two 31 ∨ two 33 < two 31
      ∨ 1440 < two 33 ∨ 10080 < two 35 ∨ 1 < one 37
  | .rate => two 2 < 100 ∨ 400 < two 2 ∨ two 4 < 100 ∨ 400 < two 4
  | .schedule =>
    1 < one 0 ∨ 1 < one 1 ∨ 1439 < two 2 ∨ 31 < one 5 ∨ 1 < one 6 ∨ (r.getD 7 0).toInt < -120
      ∨ 120 < (r.getD 7 0).toInt ∨ 15 < one 9 ∨ 3 < one 10
  | .pattern => one 8 < 1 ∨ 15 < one 8
  | .lane => 1 < one 0 ∨ 2 < one 1 ∨ 1 < one 2
  | .part =>
    1 < one 0 ∨ two 1 < 64 ∨ 2047 < two 1 ∨ 1 < one 3 ∨ 1439 < two 6 ∨ 1439 < two 8 ∨ 6 < one 10 ∨ 15 < one 11
      ∨ 1 < one 12 ∨ 1 < one 14

/-! ## Invariants -/

/-- The number of in-use worker records whose presence is INSIDE (R38). -/
def State.insideRecords (s : State) : Nat :=
  (s.workers.filter fun e => e.2.inUse && decide (e.2.presence = .inside)).length

/-- The worker records, the inside count, the badge map and the released punches agree (R35, R38, R39, R50, R53). -/
structure Consistent (s : State) : Prop where
  /-- The worker table is in its canonical form. -/
  workers : Table.wf Worker.zeroed s.workers = true
  /-- A FREE record is zeroed (R35, R47). -/
  free : ∀ i, (s.worker i).inUse = false → s.worker i = Worker.zeroed
  /-- The inside count is the number of in-use INSIDE records (R38). -/
  inside : s.insideCount = s.insideRecords
  /-- An OUTSIDE record has no open attendance (R39). -/
  outside : ∀ i, (s.worker i).presence = .outside → (s.worker i).attendance = none
  /-- While the clock is UNSET, no open attendance exists (R39). -/
  unset : s.clock.valid = false → ∀ i, (s.worker i).attendance = none
  /-- Badge codes rise strictly (R50). -/
  codes : s.badges.Pairwise fun a b => a.1 < b.1
  /-- Every badge map entry names an in-use record (R50). -/
  named : ∀ e ∈ s.badges, (s.worker e.2).inUse = true
  /-- A lane holds a punch only while RELEASED, of an in-use record, with a verdict time only while the clock is SET
  (R47, R93). -/
  punches : ∀ n p, n < Config.laneCount → (s.lane n).punch = some p →
    (s.lane n).state = .released ∧ (s.worker p.worker).inUse = true ∧ (p.verdictTime.isSome = true → s.clock.valid = true)

/-- The muster roll's two numbers (R177): the unaccounted count is the number of records marked UNACCOUNTED, none of them
FREE, and never exceeds the roll size. -/
structure RollAgrees (s : State) : Prop where
  workers : Table.wf Worker.zeroed s.workers = true
  count : s.evac.unaccounted = s.unaccountedRecords
  size : s.evac.unaccounted ≤ s.evac.rollSize
  inUse : ∀ i, (s.worker i).muster = .unaccounted → (s.worker i).inUse = true

/-- The buffers, queues, the journal and the badge map hold no more than they can (Capacities, R50, R142, R189 to
R193), and a receiver never more than the longest frame, of 248 bytes, less its last byte (R186, R187). -/
structure Bounded (s : State) : Prop where
  requests : s.link.requests.length ≤ Config.requestCap
  upQueue : s.link.upQueue.length ≤ Config.upwardCap
  upForward : s.link.upForward.length ≤ Config.forwardCap
  downForward : s.link.downForward.length ≤ Config.forwardCap
  journal : s.journal.entries.length ≤ Config.journalCap
  badges : s.badges.length ≤ Config.badgeCap
  upPartial : s.link.upPartial.length ≤ 247
  downPartial : s.link.downPartial.length ≤ 247

/-- The clock's items lie in their ranges (section 1.1), and the slew phase is 0 while no slew remains (R6). -/
structure ClockRange (c : Clock) : Prop where
  gateTime : c.gateTime ≤ Config.maxTime
  weekdayOffset : c.weekdayOffset ≤ 6
  slewLow : -3600 ≤ c.slew
  slewHigh : c.slew ≤ 3600
  slewPhase : c.slewPhase ≤ 9
  settled : c.slew = 0 → c.slewPhase = 0
  secondDivider : c.secondDivider ≤ 9
  msDivider : c.msDivider ≤ 99

/-- A lane's running state fits its state and its LANE record (R58 to R60, R67, R70, R93). -/
structure LaneFits (enabled : Bool) (l : Lane) : Prop where
  disabled : l.state = .disabled ↔ enabled = false
  release : l.releaseTimer.isSome = true ↔ l.state = .released
  held : l.heldTimer.isSome = true → l.state = .opened
  punch : l.punch.isSome = true → l.state = .released
  quiet : l.state = .disabled → l.pollTimer = none ∧ l.replyWindow = none ∧ l.conditions = LaneConditions.clear
  polled : l.state ≠ .disabled → (l.pollTimer.isSome = true ↔ l.replyWindow = none)
  lost : l.conditions.lost = true ↔ l.state = .lost
  door : l.conditions.forced = true ∨ l.conditions.held = true → l.state = .opened

/-- The running states are in their canonical form, and every lane fits. -/
structure LanesFit (s : State) : Prop where
  canonical : Table.wf Lane.cold s.lanes = true
  fits : ∀ n, n < Config.laneCount → LaneFits (s.laneRecord n).enabled (s.lane n)

/-- The evacuation phase, the causes, the fire level and the close phase agree (R126, R137, R171, R181). -/
structure PhasesAgree (s : State) : Prop where
  causes : s.evac.evacuating = false → s.evac.causes = Causes.empty
  fire : s.evac.fireLevel = true → s.evac.evacuating = true
  walking : s.close.phase = .walking → s.evac.evacuating = false
  suspended : s.close.phase = .suspended → s.evac.evacuating = true
  gather : s.close.gatherTimer.isSome = true ↔ s.close.phase = .gathering

/-- Every table is in its canonical form: indices rising, no cold-start entry listed. -/
structure TablesCanonical (s : State) : Prop where
  shifts : Table.wf Shift.cold s.shifts = true
  crews : Table.wf Crew.cold s.crews = true
  rates : Table.wf Rate.cold s.rates = true
  workers : Table.wf Worker.zeroed s.workers = true
  laneTable : Table.wf LaneRecord.cold s.laneTable = true
  lanes : Table.wf Lane.cold s.lanes = true
  schedule : Table.wf BellEntry.cold s.schedule = true
  patterns : Table.wf Pattern.cold s.patterns = true
  arbiters : Table.wf Arbiter.idle s.arbiters = true
  holding : Table.wf Holding.never s.holding = true

end Sys2Proof.Machine
end

