-- ==== Sys2Proof/Certificates/Slice0/Obligations.lean ====
section
/-! DEFINITION. The statements for the provers. A request's own effect is stated of a command that is `Ready`: its
request is the oldest or the buffer is empty, and it may be taken. `u = { s.taken with … }` says that nothing but the
named items changed. -/

open Sys2Proof Sys2Proof.Machine

/-! ## The machine -/

/-- A step with a command at the front of the queue is that command's exec on the state with the queue's rest. The queue
`pending` is the model's own (log entry 1, DESIGN CHOICE), no item of the part; the spec's part of this is that each
command is one step, whole and indivisible. -/
def Obligations.StepRunsFront : Prop :=
  ∀ (c : Instr) (rest : List Instr) (s : State), s.pending = c :: rest →
    step s = exec c { s with pending := rest }

/-- The model's choice (log entry 14): with no command waiting and the blocks running, one millisecond of R3 passes. At
a divider of 99 or more nothing changes; below it the divider rises by one, the poll timers and reply windows of the
lanes count down, and nothing else changes. -/
def Obligations.IdleStepIsMillisecond : Prop :=
  ∀ s : State, s.pending = [] → s.running = true → Table.wf Lane.cold s.lanes = true →
    ∃ t, step s = .next t
      ∧ t = { s with clock := { s.clock with msDivider := t.clock.msDivider }, lanes := t.lanes }
      ∧ (99 ≤ s.clock.msDivider → t = s)
      ∧ (s.clock.msDivider < 99 →
          t.clock.msDivider = s.clock.msDivider + 1
          ∧ ∀ n, t.lane n =
              { s.lane n with
                pollTimer := (s.lane n).pollTimer.map fun k => k - 1
                replyWindow := (s.lane n).replyWindow.map fun k => k - 1 })

/-! ## Bytes and commands -/

/-- For every request command, with every value of every operand, reading the request that its layout by R203 gives is
the command again. -/
def Obligations.RequestRoundTrip : Prop :=
  ∀ (i : Instr) (r : Request), encodeRequest i = some r → decodeRequest r = i

/-- Every request, of any kind and payload, addressed or broadcast, is read as one command whose layout is that request
again, so that no byte of it is dropped. -/
def Obligations.RequestLayoutIsWhole : Prop :=
  ∀ r : Request, encodeRequest (decodeRequest r) = some r

/-- For every head event, the reply that R61 lays out for it, followed by any bytes, which are discarded, is read as
that event with its lane, bit, code and key. -/
def Obligations.LaneReplyRoundTrip : Prop :=
  ∀ (i : Instr) (bytes more : List Byte), encodeReply i = some bytes → laneReply (replyLane i) (bytes ++ more) = i

/-- The frames of a reply: the parts in order make up the data, each but the last holds 238 bytes of it, there are one
to four, each carries kind, tag, code and part number, the last alone has the top bit of its part byte, and no
payload is longer than 240 bytes. -/
def Obligations.ReplyIsCutInParts : Prop :=
  ∀ (kind tag : Byte) (code : ReplyCode) (data : List Byte), data.length ≤ 952 →
    ∃ l : List UpFrame, replyFrames ⟨false, kind, tag, []⟩ code 0 (replyParts 3 data) = l
      ∧ 1 ≤ l.length ∧ l.length ≤ 4
      ∧ (l.flatMap fun f => f.payload.drop 2) = data
      ∧ ∀ k f, l[k]? = some f →
          f.kind = kind ∧ f.tag = tag
          ∧ f.payload.take 2 =
              [BitVec.ofNat 8 code.code, BitVec.ofNat 8 (if k + 1 = l.length then k + 128 else k)]
          ∧ (k + 1 < l.length → f.payload.length = 240) ∧ f.payload.length ≤ 240

/-! ## Starts -/

/-- A cold start that completes with FIREn and EVCL inactive leaves every item at its cold-start value, with the address
of the straps (31 selects 30). That the state named `State.reset` is this one is the model's choice (log entry 3), and
that the retained domain counts as intact from here on is its reading (log entry 32, DEDUCED). -/
def Obligations.ColdStartIsReset : Prop :=
  ∀ (strap : BitVec 5) (s : State), s.power.starting = some .cold → s.power.mainPower = true →
    exec (.startComplete false false strap) s =
      .next
        { State.reset with
          link := { State.reset.link with address := min strap.toNat 30 }
          pending := s.pending }

/-- A start that completes, warm or cold: its kind, the address of the straps, empty buffers and receivers, the link's
counts and the tick count 0, at most 6 frames waiting upward, an empty holding bank, enabled lanes IDLE in mode NORMAL
with the poll timer started and the others DISABLED, no last punch, the levels of the first samples, sensing ARMED, and
FIRE among the causes exactly when its level is active. The bells are idle, or sound the tone when the part is then
evacuating; each condition found set has its change flag set, and CLOSE_DONE's is clear. At a warm start the tables, the
badge map, the alert mask and the clock but for its tick count are kept; COMMAND and CHAIN are kept and CHAIN is taken
from an active line that the part does not drive; a close in GATHERING is abandoned and one that walked or was suspended
is SUSPENDED while the part evacuates and walks otherwise; an attendance whose deadline has been reached expires unless
the clock is UNSET or an evacuation was retained, and every other record is kept but for its last punch and the marks of
a new roll; with no such expiry and no new evacuation the journal, the inside count, the close's counts and the roll's
numbers are kept. Model's readings: the retained domain intact again (log entry 32), RSTn released (24), the first sample
of EVCL without the part's own drive (23), no source taken last (30), a frame that had begun to arrive forgotten (26).
The order of the steps is kept: on the start values (cold: those of the reset) the expiries are taken; then an evacuation
that now starts builds its roll from the records they left and offers its EVAC START entry; after it (log entry 13,
DEDUCED) one ALERT of EVACUATING, SET, is offered when the part is then evacuating, retained or new; and last one of
JOURNAL_HIGH and one of JOURNAL_FULL, SET, for each found set whose change flag is clear (of the two in an order that is a
free value: log entry 7, DESIGN CHOICE). -/
def Obligations.StartValues : Prop :=
  ∀ (fire chain : Bool) (strap : BitVec 5) (s : State) (k : StartKind), s.power.starting = some k →
    s.power.mainPower = true → Table.wf Worker.zeroed s.workers = true →
    ∃ t, exec (.startComplete fire chain strap) s = .next t
      ∧ t.power = { mainPower := true, resetActive := false, retained := true, starting := none, lastStart := k }
      ∧ t.link.address = min strap.toNat 30 ∧ t.link.requests = [] ∧ t.link.upForward = [] ∧ t.link.downForward = []
      ∧ t.link.upPartial = [] ∧ t.link.downPartial = [] ∧ t.link.lastSource = none
      ∧ t.link.frameErrors = 0 ∧ t.link.requestDrops = 0 ∧ t.link.forwardDrops = 0 ∧ t.link.restart = none
      ∧ t.link.upQueue.length ≤ 6
      ∧ t.clock.tickCount = 0 ∧ t.holding = []
      ∧ (∀ n, n < 16 → t.lane n =
          if (t.laneRecord n).enabled then
            { Lane.cold with state := .idle, pollTimer := some t.part.pollInterval }
          else Lane.cold)
      ∧ (∀ i, (t.worker i).lastPunch = none)
      ∧ t.evac.fireLevel = fire ∧ t.evac.chainLevel = chain ∧ t.evac.armed = true
      ∧ t.evac.fireSamples = (fire, fire) ∧ t.evac.chainSamples = (chain, chain)
      ∧ (fire = true → t.evac.evacuating = true) ∧ t.evac.causes.fire = fire
      ∧ (t.evac.evacuating = false → ∀ o, t.arbiter o = Arbiter.idle)
      ∧ (t.evac.evacuating = true → ∀ o, o < 4 → ∃ cd, t.arbiter o = ⟨some cd, none, false⟩ ∧ cd.priority = 4
          ∧ cd.passes = .endless ∧ cd.copy = t.pattern t.part.evacPattern ∧ cd.segment = 0)
      ∧ t.changes = ⟨t.journalHigh, t.journalFull, t.evac.evacuating, false⟩
      ∧ t.close.gatherTimer = none
      ∧ (k ≠ .cold →
          t.shifts = s.shifts ∧ t.crews = s.crews ∧ t.rates = s.rates ∧ t.part = s.part
          ∧ t.laneTable = s.laneTable ∧ t.schedule = s.schedule ∧ t.patterns = s.patterns ∧ t.badges = s.badges
          ∧ t.link.alertMask = s.link.alertMask ∧ t.clock = { s.clock with tickCount := 0 }
          ∧ t.evac.causes.command = s.evac.causes.command
          ∧ t.evac.causes.chain = (s.evac.causes.chain || (chain && !fire && !s.evac.causes.command))
          ∧ t.evac.evacuating = (s.evac.evacuating || fire || (chain && !s.evac.causes.command))
          ∧ t.close =
              { s.close with
                phase :=
                  if s.close.phase = .walking ∨ s.close.phase = .suspended then
                    if t.evac.evacuating then .suspended else .walking
                  else .idle
                gatherTimer := none, closed := t.close.closed, skipped := t.close.skipped, split := t.close.split }
          ∧ (∀ i,
              (s.clock.valid = true → s.evac.evacuating = false →
                (∃ a, (s.worker i).attendance = some a ∧ a.deadline ≤ s.clock.gateTime) →
                (t.worker i).attendance = none ∧ (t.worker i).presence = .unknown)
              ∧ (s.clock.valid = false ∨ s.evac.evacuating = true
                  ∨ (∀ a, (s.worker i).attendance = some a → s.clock.gateTime < a.deadline) →
                t.worker i = { s.worker i with lastPunch := none, muster := (t.worker i).muster })
              ∧ (t.evac.evacuating = s.evac.evacuating → (t.worker i).muster = (s.worker i).muster))
          ∧ (t.evac.evacuating = s.evac.evacuating →
              t.evac.snapshot = s.evac.snapshot ∧ t.evac.rollSize = s.evac.rollSize
              ∧ t.evac.unaccounted = s.evac.unaccounted)
          ∧ (s.clock.valid = false ∨ s.evac.evacuating = true
              ∨ (∀ i a, (s.worker i).attendance = some a → s.clock.gateTime < a.deadline) →
              t.insideCount = s.insideCount ∧ t.close.closed = s.close.closed ∧ t.close.skipped = s.close.skipped
              ∧ t.close.split = s.close.split
              ∧ (t.evac.evacuating = s.evac.evacuating → t.journal = s.journal)))
      ∧ ∃ b y x v w : State, b = (if k = .cold then { State.reset with pending := s.pending } else s)
        ∧ y = { b with
            power := t.power, clock := { b.clock with tickCount := 0 }, workers := y.workers, lanes := t.lanes
            arbiters := [], holding := [], changes := ⟨false, false, false, false⟩
            link := { t.link with upQueue := [], alertMask := b.link.alertMask }
            close :=
              { b.close with
                phase :=
                  if b.close.phase = .walking ∨ b.close.phase = .suspended then
                    if b.evac.evacuating then .suspended else .walking
                  else .idle
                gatherTimer := none } }
        ∧ (∀ j, y.worker j = { b.worker j with lastPunch := none })
        ∧ x = takeExpiries y
        ∧ v = (if t.evac.evacuating && !b.evac.evacuating then offerEntry (.evacStart t.evac.causes) x else x)
        ∧ t.journal = v.journal ∧ t.insideCount = x.insideCount
        ∧ w = { v with link := { v.link with upQueue := w.link.upQueue } }
        ∧ Alerts v w (v.alertOf t.evac.evacuating 6 255 1)
        ∧ t.link = { v.link with upQueue := t.link.upQueue }
        ∧ Alerts w t
            (w.alertOf (!v.changes.journalHigh && t.journalHigh) 4 255 1
              ++ w.alertOf (!v.changes.journalFull && t.journalFull) 5 255 1)
        ∧ (t.evac.evacuating = b.evac.evacuating → ∀ j, t.worker j = x.worker j)
        ∧ (t.evac.evacuating = true → b.evac.evacuating = false →
            t.evac.snapshot = (if b.clock.valid then .time b.clock.gateTime else .unset)
            ∧ t.evac.rollSize = t.evac.unaccounted ∧ t.evac.unaccounted = t.unaccountedRecords
            ∧ ∀ j, t.worker j =
                { x.worker j with muster :=
                    if (x.worker j).status ≠ .free
                        ∧ ((x.worker j).presence = .inside
                          ∨ ((x.worker j).presence = .unknown ∧ (x.worker j).attendance.isSome = true))
                      then .unaccounted else .none })

/-- Loss of main power, RSTn, main power arriving on a lost or an intact retained domain and the loss of that domain
change the power items alone, as R205 gives, and do not change the cause of a start that goes on. RESTART puts its
reply at the end of the queue and waits; the transmitter taking a frame of the queue brings the reply nearer; once
it has left, a warm start with cause RESTART begins. Model's readings: the wait is held as a count of frames (log entry
25, DEDUCED); an event whose own condition does not hold (power lost without power, power arriving with it, the domain
lost with power present) changes nothing (log entry 4, DEDUCED); RSTn and its release (log entry 24). -/
def Obligations.StartsBeginAndRestart : Prop :=
  ((∀ s : State, ∃ t, exec .mainPowerLost s = .next t ∧ t = { s with power := t.power }
      ∧ (s.power.mainPower = true →
          t.power = { s.power with mainPower := false, starting := some (s.power.starting.getD .warmMain) })
      ∧ (s.power.mainPower = false → t = s))
    ∧ (∀ s : State, exec .resetInputActive s =
        .next { s with power :=
          { s.power with resetActive := true, starting := some (s.power.starting.getD .warmReset) } })
    ∧ (∀ s : State, ∃ t, exec .retainedDomainLost s = .next t ∧ t = { s with power := t.power }
        ∧ (s.power.mainPower = false → t.power = { s.power with retained := false })
        ∧ (s.power.mainPower = true → t = s))
    ∧ ∀ s : State, ∃ t, exec .powerUp s = .next t ∧ t = { s with power := t.power }
        ∧ (s.power.mainPower = false → s.power.retained = false →
            t.power = { s.power with mainPower := true, starting := some .cold })
        ∧ (s.power.mainPower = false → s.power.retained = true →
            t.power = { s.power with mainPower := true, starting := some (s.power.starting.getD .warmMain) })
        ∧ (s.power.mainPower = true → t = s))
    ∧ ((∀ (tag : Byte) (s : State), Ready (.restart tag) s →
        ∃ t, exec (.restart tag) s = .next t
          ∧ t.link.upQueue = s.link.upQueue ++ [⟨6#8, tag, [0#8, 128#8]⟩]
          ∧ t.link.restart = some t.link.upQueue.length
          ∧ t = { s.taken with link := { s.taken.link with restart := t.link.restart, upQueue := t.link.upQueue } })
      ∧ (∀ (s : State) (f : UpFrame) (rest : List UpFrame) (n : Nat), s.running = true → s.link.upForward = [] →
          s.link.upQueue = f :: rest → s.link.restart = some (n + 1) →
          ∃ t, exec .upwardTransmit s = .next t ∧ t.link.upQueue = rest ∧ t.link.restart = some n)
      ∧ ∀ s : State, s.running = true → s.link.restart = some 0 →
          exec .restartReplySent s = .next { s with power := { s.power with starting := some .warmRestart } })

/-- While a start goes on, every command but the power events, the end of the start, TICK_100MS and SECOND_TICK changes
nothing: requests and the bytes on either port are lost, and every lane, head, link, close, segment and level event finds
no block running. The two clock commands move the Gate Clock alone: while the retained domain is intact the dividers and
second ticks go on counting, slewing as while the blocks run, gate time advances, and no advance fires a bell or takes an
expiry; once that domain is lost nothing changes (log entry 35, DEDUCED; that second ticks fall due in a count, and that an
idle step is a millisecond, are the model's own, log entries 18 and 14, DESIGN CHOICE). The release and bell outputs are
idle, and EVCL is not driven. -/
def Obligations.StartStopsTheBlocks : Prop :=
  ∀ s : State, s.running = false →
    (∀ i : Instr,
      match i with
      | .powerUp | .mainPowerLost | .resetInputActive | .retainedDomainLost | .startComplete _ _ _ => True
      | .tick100ms _ _ =>
        ∃ t, exec i s = .next t
          ∧ t = { s with clock :=
              { s.clock with
                msDivider := t.clock.msDivider, secondDivider := t.clock.secondDivider
                secondsDue := t.clock.secondsDue } }
          ∧ (s.power.retained = false → t = s)
          ∧ (s.power.retained = true →
              t.clock.msDivider = 0
              ∧ (s.clock.secondDivider ≠ 9 →
                  t.clock.secondDivider = s.clock.secondDivider + 1 ∧ t.clock.secondsDue = s.clock.secondsDue)
              ∧ (s.clock.secondDivider = 9 →
                  t.clock.secondDivider = 0 ∧ t.clock.secondsDue = s.clock.secondsDue + 1))
      | .secondTick =>
        ∃ t, exec i s = .next t
          ∧ t = { s with clock :=
              { s.clock with
                gateTime := t.clock.gateTime, slew := t.clock.slew, slewPhase := t.clock.slewPhase
                secondsDue := s.clock.secondsDue - if s.power.retained then 1 else 0 } }
          ∧ (s.power.retained = false ∨ s.clock.secondsDue = 0 → t = s)
          ∧ (s.power.retained = true → 0 < s.clock.secondsDue →
              (s.clock.slew = 0 →
                t.clock.gateTime = min (s.clock.gateTime + 1) 4294967295 ∧ t.clock.slew = 0
                ∧ t.clock.slewPhase = s.clock.slewPhase)
              ∧ (s.clock.slew ≠ 0 → s.clock.slewPhase ≠ 9 →
                t.clock.gateTime = min (s.clock.gateTime + 1) 4294967295 ∧ t.clock.slew = s.clock.slew
                ∧ t.clock.slewPhase = s.clock.slewPhase + 1)
              ∧ (0 < s.clock.slew → s.clock.slewPhase = 9 →
                t.clock.gateTime = min (s.clock.gateTime + 2) 4294967295 ∧ t.clock.slew = s.clock.slew - 1
                ∧ t.clock.slewPhase = 0)
              ∧ (s.clock.slew < 0 → s.clock.slewPhase = 9 →
                t.clock.gateTime = min s.clock.gateTime 4294967295 ∧ t.clock.slew = s.clock.slew + 1
                ∧ t.clock.slewPhase = 0))
      | _ => exec i s = .next s)
    ∧ (s.pending = [] →
        step s =
          .next
            (if s.power.retained ∧ s.clock.msDivider < 99 then
              { s with clock := { s.clock with msDivider := s.clock.msDivider + 1 } }
            else s))
    ∧ (∀ n, s.releaseOutput n = false) ∧ (∀ o, s.bellAsserted o = false) ∧ s.pullsChain = false

/-! ## The Gate Clock -/

/-- A 100 ms tick while the blocks run, in full: the tick count rises, the millisecond divider returns to 0, the second
divider counts and at its tenth tick a second tick falls due; gate time, validity, weekday offset and slew stand. The
release, held, gather and segment timers count one tick down, and the poll timers and reply windows the milliseconds that
lead to the tick. The new samples of FIREn and of EVCL, which the part's own drive pulls active too, stand before the old
ones, and sensing becomes ARMED when the filtered chain level is INACTIVE and does not turn ACTIVE. Nothing else changes.
Model's readings: the second tick falls due in a count of the model's own (log entry 18, DESIGN CHOICE); the tick carries
the milliseconds since the divider's value (17, DEDUCED); the operand for EVCL is what other parts drive (22, DEDUCED); after a
clear the own drive that the line still shows in the last sample counts, so that a part that drove EVCL itself arms at the
second tick (40, DESIGN CHOICE); a timer at 0 stays at 0 (37, DEDUCED). -/
def Obligations.TickCounts : Prop :=
  ∀ (fire chain : Bool) (s : State), s.running = true → Table.wf Lane.cold s.lanes = true →
    Table.wf Arbiter.idle s.arbiters = true →
    ∃ t, exec (.tick100ms fire chain) s = .next t
      ∧ t = { s with
          clock :=
            { s.clock with
              tickCount := s.clock.tickCount + 1, msDivider := 0, secondDivider := t.clock.secondDivider
              secondsDue := t.clock.secondsDue }
          lanes := t.lanes, arbiters := t.arbiters
          close := { s.close with gatherTimer := s.close.gatherTimer.map fun k => k - 1 }
          evac :=
            { s.evac with
              fireSamples := (fire, s.evac.fireSamples.1)
              chainSamples := (chain || s.evac.causes.fire || s.evac.causes.command, s.evac.chainSamples.1)
              armed := t.evac.armed } }
      ∧ (s.clock.secondDivider ≠ 9 →
          t.clock.secondDivider = s.clock.secondDivider + 1 ∧ t.clock.secondsDue = s.clock.secondsDue)
      ∧ (s.clock.secondDivider = 9 → t.clock.secondDivider = 0 ∧ t.clock.secondsDue = s.clock.secondsDue + 1)
      ∧ (∀ n, t.lane n =
          { s.lane n with
            releaseTimer := (s.lane n).releaseTimer.map fun k => k - 1
            heldTimer := (s.lane n).heldTimer.map fun k => k - 1
            pollTimer := (s.lane n).pollTimer.map fun k => k - (100 - s.clock.msDivider)
            replyWindow := (s.lane n).replyWindow.map fun k => k - (100 - s.clock.msDivider) })
      ∧ (∀ o, t.arbiter o =
          { s.arbiter o with
            active := (s.arbiter o).active.map fun c => { c with timer := c.timer.map fun k => k - 1 } })
      ∧ (s.evac.armed = true → t.evac.armed = true)
      ∧ (s.evac.chainLevel = false → t.evac.chainSamples ≠ (true, true) → t.evac.armed = true)
      ∧ (s.evac.chainLevel = false → t.evac.chainSamples = (true, true) → t.evac.armed = s.evac.armed)
      ∧ (s.evac.chainLevel = true → t.evac.armed = s.evac.armed)

/-- A second tick that is due: gate time rises by one, by two, or stays, as the slew remaining and its phase give, and
stops at the clock's maximum; the slew falls toward 0 by one at a slewed tick, and the phase stands while no slew remains;
while UNSET, and while SET with an advance of 0, nothing but the clock changes; while SET an advance fires the bells
between the old and the new time and then takes the expiries. That a second tick is due is a count of the model's own
(log entry 18, DESIGN CHOICE).
What the bells of an advance are: a CLOCK entry in use rings at its minute on the weekdays of its mask; a SHIFT entry in
use rings at its anchor plus its offset for an instance of the day before, the day or the day after on which its shift
occurs, that is, on which the rota of a crew with a worker in use names it. The seconds of the advance are taken in order,
at each the 64 entries by index; one that rings sends one request with its pattern and priority to each output of its
mask, and one that does not changes nothing. That an instance has a day number, so that on day 0 none of a day before
rings, is the model's reading (log entry 29, DEDUCED). -/
def Obligations.SecondTickAdvances : Prop :=
  (∀ s : State, s.running = true → 0 < s.clock.secondsDue →
    ∃ t, exec .secondTick s = .next t
      ∧ (s.clock.slew = 0 →
          t.clock.gateTime = min (s.clock.gateTime + 1) Config.maxTime ∧ t.clock.slew = 0
          ∧ t.clock.slewPhase = s.clock.slewPhase)
      ∧ (s.clock.slew ≠ 0 → s.clock.slewPhase ≠ 9 →
          t.clock.gateTime = min (s.clock.gateTime + 1) Config.maxTime ∧ t.clock.slew = s.clock.slew
          ∧ t.clock.slewPhase = s.clock.slewPhase + 1)
      ∧ (0 < s.clock.slew → s.clock.slewPhase = 9 →
          t.clock.gateTime = min (s.clock.gateTime + 2) Config.maxTime ∧ t.clock.slew = s.clock.slew - 1
          ∧ t.clock.slewPhase = 0)
      ∧ (s.clock.slew < 0 → s.clock.slewPhase = 9 →
          t.clock.gateTime = min s.clock.gateTime Config.maxTime ∧ t.clock.slew = s.clock.slew + 1
          ∧ t.clock.slewPhase = 0)
      ∧ t.clock =
          { s.clock with
            gateTime := t.clock.gateTime, slew := t.clock.slew, slewPhase := t.clock.slewPhase
            secondsDue := s.clock.secondsDue - 1 }
      ∧ (s.clock.valid = false → t = { s with clock := t.clock })
      ∧ (s.clock.valid = true → t.clock.gateTime ≤ s.clock.gateTime → t = { s with clock := t.clock })
      ∧ (s.clock.valid = true → s.clock.gateTime < t.clock.gateTime →
          t = takeExpiries
            (fireBells s.clock.gateTime t.clock.gateTime { s with clock := t.clock })))
    ∧ (∀ (s : State) (e : BellEntry) (t : Nat),
      s.ringsAt e t = true ↔
        e.inUse = true
          ∧ (match e.kind with
            | .clock =>
              t % 86400 = 60 * e.minute ∧ e.weekdays.getLsbD ((t / 86400 + s.clock.weekdayOffset) % 7) = true
            | .shift =>
              ∃ d, t / 86400 ≤ d + 1 ∧ d ≤ t / 86400 + 1 ∧ s.occurs e.shift d = true
                ∧ (t : Int) = 86400 * d + 60 * e.offset
                    + (match e.anchor with
                      | .start => 60 * (s.shift e.shift).start
                      | .stop => 60 * (s.shift e.shift).stop
                          + if (s.shift e.shift).start < (s.shift e.shift).stop then 0 else 86400)))
    ∧ (∀ (s : State) (i d : Nat), Table.wf Worker.zeroed s.workers = true →
      (s.occurs i d = true ↔
        ∃ c j, c < 16 ∧ (s.worker j).status ≠ .free ∧ (s.worker j).crew = c ∧ (s.crew c).rotaDay d = some i))
    ∧ (∀ (s : State) (p : Nat),
      fireBells p (p + 1) s = (List.range 64).foldl (fun u i => fireEntry (p + 1) u i) s
      ∧ fireBells p (p + 2) s =
          (List.range 64).foldl (fun u i => fireEntry (p + 2) u i)
            ((List.range 64).foldl (fun u i => fireEntry (p + 1) u i) s))
    ∧ ∀ (s : State) (i t : Nat),
      (s.ringsAt (s.bellEntry i) t = false → fireEntry t s i = s)
      ∧ (s.ringsAt (s.bellEntry i) t = true →
        ∃ u : State, fireEntry t s i = u ∧ u = { s with arbiters := u.arbiters }
          ∧ (∀ o, o < 4 → (s.bellEntry i).outputs.getLsbD o = true →
              u.arbiter o = (s.arbitrate (s.arbiter o) ⟨(s.bellEntry i).pattern, (s.bellEntry i).priority⟩).1)
          ∧ ∀ o, 4 ≤ o ∨ (s.bellEntry i).outputs.getLsbD o = false → u.arbiter o = s.arbiter o)

/-- TIME SLEW, addressed or broadcast: refused with CLOCK_UNSET while validity is UNSET, the clock unchanged; otherwise
slew remaining becomes the amount brought to -3600 or +3600, with CLAMPED or OK, the slew phase becomes 0, and
nothing else changes: no journal entry, gate time as it is. -/
def Obligations.TimeSlewReplaces : Prop :=
  ∀ (b : Bool) (tag : Byte) (amount : Half) (s : State), Ready (.timeSlew b tag amount) s →
    exec (.timeSlew b tag amount) s =
      .next
        (if s.clock.valid then
          ({ s.taken with
              clock := { s.clock with slew := max (-3600) (min amount.toInt 3600), slewPhase := 0 } }).replyUnless b
            17#8 tag (if -3600 ≤ amount.toInt ∧ amount.toInt ≤ 3600 then .ok else .clamped) []
        else s.taken.replyUnless b 17#8 tag .clockUnset [])

/-- TIME SET, addressed or broadcast: an offset above 6 is refused with BAD_VALUE and nothing changes; otherwise the
CLOCK entry is offered with the old time or none and the new one, the clock takes the time and the offset, becomes
SET with no slew, no phase and its second divider 0, and then the expiries due are taken. That no second tick of before
the set stays due is the model's choice (log entry 18, DESIGN CHOICE); that the reply's frame comes after the notices and
alerts of the step is its reading (log entry 12, DEDUCED).
The expiries due: none while the clock is UNSET or the part is evacuating; otherwise those of exactly the records whose
deadline is at or before the gate time, one after another in ascending order of index. Each leaves its record without an
attendance and with presence UNKNOWN; every other record and the clock stand. -/
def Obligations.TimeSetTakes : Prop :=
  (∀ (b : Bool) (tag : Byte) (time : Word) (offset : Byte) (s : State), Ready (.timeSet b tag time offset) s →
    (6 < offset.toNat →
      exec (.timeSet b tag time offset) s = .next (s.taken.replyUnless b 16#8 tag .badValue []))
    ∧ (offset.toNat ≤ 6 →
      exec (.timeSet b tag time offset) s =
        .next
          ((takeExpiries
            { offerEntry (.clock (if s.clock.valid then some s.clock.gateTime else none) time.toNat) s.taken with
              clock :=
                { s.clock with
                  gateTime := time.toNat, weekdayOffset := offset.toNat, valid := true, slew := 0, slewPhase := 0,
                  secondDivider := 0, secondsDue := 0 } }).replyUnless b 16#8 tag .ok [])))
    ∧ ∀ s : State,
      (s.clock.valid = false ∨ s.evac.evacuating = true → takeExpiries s = s)
      ∧ (s.clock.valid = true → s.evac.evacuating = false → Table.wf Worker.zeroed s.workers = true →
        ∃ due : List Nat, takeExpiries s = due.foldl (fun u i => expire i u) s
          ∧ due.Pairwise (fun i j => i < j)
          ∧ (∀ i, i ∈ due ↔ ∃ a, (s.worker i).attendance = some a ∧ a.deadline ≤ s.clock.gateTime)
          ∧ (∀ i, i ∈ due →
              ((takeExpiries s).worker i).attendance = none ∧ ((takeExpiries s).worker i).presence = .unknown)
          ∧ (∀ i, i ∉ due → (takeExpiries s).worker i = s.worker i)
          ∧ (takeExpiries s).clock = s.clock)

/-- TIME READ replies gate time, validity, weekday offset and slew remaining; CLOSE STATUS replies the close state
record; DESCRIBE replies the fixed record with the part's own address. Nothing else changes. -/
def Obligations.FixedReadsReply : Prop :=
  ((∀ (tag : Byte) (s : State), Ready (.timeRead tag) s →
      exec (.timeRead tag) s =
        .next (s.taken.reply 18#8 tag .ok
          (be32 s.clock.gateTime ++ [if s.clock.valid then 1#8 else 0#8] ++ be8 s.clock.weekdayOffset
            ++ signed16 s.clock.slew)))
    ∧ ∀ (tag : Byte) (s : State), Ready (.closeStatus tag) s →
        exec (.closeStatus tag) s =
          .next (s.taken.reply 74#8 tag .ok
            (be8 s.close.phase.code ++ be16 s.close.crews.toNat ++ [s.close.gen] ++ be32 s.close.tClose
              ++ be16 s.close.walkIndex ++ be16 s.close.closed ++ be16 s.close.skipped ++ be16 s.close.split
              ++ be8 s.close.lastResult.code)))
    ∧ (∀ (tag : Byte) (s : State), Ready (.describe tag) s →
      exec (.describe tag) s =
        .next (s.taken.reply 1#8 tag .ok
          (be16 71 ++ be16 1604 ++ be8 1 ++ be8 s.link.address ++ be16 16 ++ be16 4 ++ be16 4096 ++ be16 8192 ++ be16 32
            ++ be16 16 ++ be16 16 ++ be16 64 ++ be16 16 ++ be16 2048 ++ be16 240 ++ be16 2 ++ be16 8)))

/-- Whatever command runs other than a cold start's completion, validity that is SET stays SET; and if it is no TIME SET
either, gate time does not fall. -/
def Obligations.ClockOnlyLosesAtColdStart : Prop :=
  ∀ (i : Instr) (s t : State), exec i s = .next t → s.clock.gateTime ≤ Config.maxTime →
    (¬ ∃ fire chain strap, i = .startComplete fire chain strap ∧ s.power.starting = some .cold) →
    (s.clock.valid = true → t.clock.valid = true)
    ∧ ((¬ ∃ b tag time offset, i = .timeSet b tag time offset) → s.clock.gateTime ≤ t.clock.gateTime)

/-! ## The Chain Port -/

/-- STATUS READ: any option but yes and no is refused; the reply's data in the order of R203; without clear nothing else
changes; with clear every change flag and the three link counts are cleared and nothing else changes. ALERT MASK: an
enable that is neither yes nor no is refused; otherwise mask and enable are replaced, with no alert sent. -/
def Obligations.StatusRequestsReply : Prop :=
  (∀ (tag clear : Byte) (s : State), Ready (.statusRead tag clear) s → Table.wf Lane.cold s.lanes = true →
    (1 < clear.toNat → exec (.statusRead tag clear) s = .next (s.taken.reply 2#8 tag .badValue []))
    ∧ (clear.toNat ≤ 1 →
      ∃ u : State, exec (.statusRead tag clear) s =
          .next (u.reply 2#8 tag .ok
            (be16 s.insideCount
              ++ (List.range 16).flatMap (fun n =>
                  be8 (s.lane n).state.code ++ be8 (s.lane n).conditions.mask ++ be8 (s.lane n).changes.mask)
              ++ be8 (bitSet [s.journalHigh, s.journalFull, s.evac.evacuating])
              ++ be8 (bitSet
                  [s.changes.journalHigh, s.changes.journalFull, s.changes.evacuating, s.changes.closeDone])
              ++ [s.link.alertMask] ++ be8 (if s.part.alertEnable then 1 else 0) ++ be16 s.link.frameErrors
              ++ be16 s.link.requestDrops ++ be16 s.link.forwardDrops ++ be8 s.power.lastStart.code))
        ∧ (clear.toNat = 0 → u = s.taken)
        ∧ (clear.toNat = 1 →
            (∀ n, u.lane n = { s.lane n with changes := LaneConditions.clear })
            ∧ u = { s.taken with
                lanes := u.lanes, changes := ⟨false, false, false, false⟩
                link := { s.taken.link with frameErrors := 0, requestDrops := 0, forwardDrops := 0 } })))
    ∧ (∀ (tag mask enable : Byte) (s : State), Ready (.alertMask tag mask enable) s →
      (1 < enable.toNat → exec (.alertMask tag mask enable) s = .next (s.taken.reply 3#8 tag .badValue []))
      ∧ (enable.toNat ≤ 1 →
        exec (.alertMask tag mask enable) s =
          .next
            (({ s.taken with
                link := { s.taken.link with alertMask := mask }
                part := { s.part with alertEnable := decide (enable.toNat = 1) } }).reply 3#8 tag .ok [])))

/-- An unknown table gives BAD_TABLE, then a run past the table's end or longer than a request may be gives BAD_INDEX,
then a TABLE WRITE of the wrong length, or with a refusable field of some record of the run outside its set
(`TableId.outside`), gives BAD_VALUE; nothing is written. A TABLE READ that is not refused returns the identifier, first
index and count byte of the request and the records of the run in order, and changes nothing else; that the count is
returned as the request carries it is the model's reading (log entry 20, DEDUCED). The record of each table is returned
item by item in the widths of R202, LANE in 9 bytes and PART in 15 (R198). -/
def Obligations.TableRequestsAreRefused : Prop :=
  (∀ (tag table first count : Byte) (records : List Byte) (s : State),
      Ready (.tableWrite tag table first count records) s →
      (tableOf table = none →
        exec (.tableWrite tag table first count records) s = .next (s.taken.reply 4#8 tag .badTable []))
      ∧ ∀ t : TableId, tableOf table = some t →
        (t.records < first.toNat + (count.toNat + 1) ∨ t.perRequest < count.toNat + 1 →
          exec (.tableWrite tag table first count records) s = .next (s.taken.reply 4#8 tag .badIndex []))
        ∧ (first.toNat + (count.toNat + 1) ≤ t.records → count.toNat + 1 ≤ t.perRequest →
            records.length ≠ (count.toNat + 1) * t.size →
          exec (.tableWrite tag table first count records) s = .next (s.taken.reply 4#8 tag .badValue []))
        ∧ ∀ run : List (List Byte), records = run.flatten → run.length = count.toNat + 1 →
            (∀ r ∈ run, r.length = t.size) →
            first.toNat + (count.toNat + 1) ≤ t.records → count.toNat + 1 ≤ t.perRequest →
            (∃ r ∈ run, t.outside r) →
          exec (.tableWrite tag table first count records) s = .next (s.taken.reply 4#8 tag .badValue []))
    ∧ ∀ (tag table first count : Byte) (s : State), Ready (.tableRead tag table first count) s →
      (tableOf table = none →
        exec (.tableRead tag table first count) s = .next (s.taken.reply 5#8 tag .badTable []))
      ∧ ∀ t : TableId, tableOf table = some t →
        (t.records < first.toNat + (count.toNat + 1) ∨ t.perRequest < count.toNat + 1 →
          exec (.tableRead tag table first count) s = .next (s.taken.reply 5#8 tag .badIndex []))
        ∧ (first.toNat + (count.toNat + 1) ≤ t.records → count.toNat + 1 ≤ t.perRequest →
          exec (.tableRead tag table first count) s =
            .next (s.taken.reply 5#8 tag .ok
              ([table, first, count]
                ++ (List.range (count.toNat + 1)).flatMap fun k => recordBytes s t (first.toNat + k))))
        ∧ ∀ i,
          recordBytes s .shift i =
              be16 (s.shift i).start ++ be16 (s.shift i).stop ++ be8 (s.shift i).entryOpen ++ be8 (s.shift i).earlyGrace
                ++ be8 (s.shift i).lateGrace ++ be8 (s.shift i).exitGrace ++ be8 (s.shift i).quantum
                ++ be8 (s.shift i).break_ ++ be16 (s.shift i).threshold ++ be16 (s.shift i).outWindow
          ∧ recordBytes s .crew i =
              be8 (s.crew i).length ++ be16 (s.crew i).anchor
                ++ ((s.crew i).rota.flatMap fun d => match d with | some k => be8 k | none => [255#8])
                ++ be16 (s.crew i).dr ++ be16 (s.crew i).dl ++ be16 (s.crew i).wr
                ++ be8 (match (s.crew i).passback with | .hard => 0 | .soft => 1)
          ∧ recordBytes s .rate i =
              be16 (s.rate i).base ++ be16 (s.rate i).m1 ++ be16 (s.rate i).m2 ++ be16 (s.rate i).premium
          ∧ recordBytes s .schedule i =
              be8 (if (s.bellEntry i).inUse then 1 else 0)
                ++ be8 (match (s.bellEntry i).kind with | .clock => 0 | .shift => 1) ++ be16 (s.bellEntry i).minute
                ++ [(s.bellEntry i).weekdays] ++ be8 (s.bellEntry i).shift
                ++ be8 (match (s.bellEntry i).anchor with | .start => 0 | .stop => 1)
                ++ [BitVec.ofInt 8 (s.bellEntry i).offset, (s.bellEntry i).outputs] ++ be8 (s.bellEntry i).pattern
                ++ be8 (s.bellEntry i).priority
          ∧ recordBytes s .pattern i =
              ((s.pattern i).segments.flatMap fun g => be8 (g.duration + if g.level then 128 else 0))
                ++ be8 (s.pattern i).repeats
          ∧ recordBytes s .lane i =
              be8 (if (s.laneRecord i).enabled then 1 else 0)
                ++ be8 (match (s.laneRecord i).direction with | .onlyIn => 0 | .onlyOut => 1 | .dual => 2)
                ++ be8 (match (s.laneRecord i).fail with | .secure => 0 | .opens => 1)
                ++ be8 (s.laneRecord i).releaseTime ++ be16 (s.laneRecord i).heldTime ++ be8 (s.laneRecord i).window
                ++ be16 (s.laneRecord i).crewMask.toNat
          ∧ recordBytes s .part i =
              be8 (if s.part.wrap then 1 else 0) ++ be16 s.part.highMark ++ be8 (if s.part.liveNotices then 1 else 0)
                ++ be8 s.part.gatherWindow ++ be8 s.part.duplicateWindow ++ be16 s.part.nightStart
                ++ be16 s.part.nightEnd ++ be8 s.part.weekStart ++ be8 s.part.evacPattern
                ++ be8 (if s.part.alertEnable then 1 else 0) ++ be8 s.part.pollInterval
                ++ be8 (if s.part.extendedLoss then 1 else 0)

/-- A run of legal SHIFT, CREW, RATE, BELL SCHEDULE or BELL PATTERN records, of any length a request may have, in the
layout of R202: each is the record at its index afterwards, the reply is OK, and the table's other records and all else
are as before. What is legal is said by numbers. -/
def Obligations.TableWriteStores : Prop :=
  ((∀ r : Shift, r.legal = true ↔
      r.start ≤ 1439 ∧ r.stop ≤ 1439 ∧ r.entryOpen ≤ 240 ∧ r.earlyGrace ≤ 60 ∧ r.lateGrace ≤ 60 ∧ r.exitGrace ≤ 60
        ∧ r.quantum ∈ [1, 5, 6, 10, 12, 15, 30] ∧ r.break_ ≤ 120 ∧ r.threshold ≤ 1440 ∧ r.outWindow ≤ 720)
    ∧ (∀ r : Crew, r.legal = true ↔
      1 ≤ r.length ∧ r.length ≤ 28 ∧ (∀ i, some i ∈ r.rota → i ≤ 31) ∧ r.dr ≤ r.dl ∧ r.dl ≤ 1440 ∧ r.wr ≤ 10080)
    ∧ (∀ r : Rate, r.legal = true ↔ 100 ≤ r.m1 ∧ r.m1 ≤ 400 ∧ 100 ≤ r.m2 ∧ r.m2 ≤ 400)
    ∧ (∀ r : BellEntry, r.legal = true ↔
      r.minute ≤ 1439 ∧ r.shift ≤ 31 ∧ -120 ≤ r.offset ∧ r.offset ≤ 120 ∧ r.pattern ≤ 15 ∧ r.priority ≤ 3))
    ∧ (∀ (tag first count : Byte) (run : List Shift) (s : State),
      Ready (.tableWrite tag 1#8 first count (run.flatMap Shift.bytes)) s → run.length = count.toNat + 1 →
      run.length ≤ 16 → first.toNat + run.length ≤ 32 → (∀ r ∈ run, r.legal = true) →
      ∃ u : State, exec (.tableWrite tag 1#8 first count (run.flatMap Shift.bytes)) s = .next (u.reply 4#8 tag .ok [])
        ∧ u = { s.taken with shifts := u.shifts }
        ∧ (∀ k r, run[k]? = some r → u.shift (first.toNat + k) = r)
        ∧ ∀ i, i < first.toNat ∨ first.toNat + run.length ≤ i → u.shift i = s.shift i)
    ∧ (∀ (tag first count : Byte) (run : List Crew) (s : State),
      Ready (.tableWrite tag 2#8 first count (run.flatMap Crew.bytes)) s → run.length = count.toNat + 1 →
      run.length ≤ 6 → first.toNat + run.length ≤ 16 →
      (∀ r ∈ run, r.legal = true ∧ r.rota.length = 28 ∧ r.anchor ≤ 65535) →
      ∃ u : State, exec (.tableWrite tag 2#8 first count (run.flatMap Crew.bytes)) s = .next (u.reply 4#8 tag .ok [])
        ∧ u = { s.taken with crews := u.crews }
        ∧ (∀ k r, run[k]? = some r → u.crew (first.toNat + k) = r)
        ∧ ∀ i, i < first.toNat ∨ first.toNat + run.length ≤ i → u.crew i = s.crew i)
    ∧ (∀ (tag first count : Byte) (run : List Rate) (s : State),
      Ready (.tableWrite tag 3#8 first count (run.flatMap Rate.bytes)) s → run.length = count.toNat + 1 →
      run.length ≤ 16 → first.toNat + run.length ≤ 16 →
      (∀ r ∈ run, r.legal = true ∧ r.base ≤ 65535 ∧ r.premium ≤ 65535) →
      ∃ u : State, exec (.tableWrite tag 3#8 first count (run.flatMap Rate.bytes)) s = .next (u.reply 4#8 tag .ok [])
        ∧ u = { s.taken with rates := u.rates }
        ∧ (∀ k r, run[k]? = some r → u.rate (first.toNat + k) = r)
        ∧ ∀ i, i < first.toNat ∨ first.toNat + run.length ≤ i → u.rate i = s.rate i)
    ∧ (∀ (tag first count : Byte) (run : List BellEntry) (s : State),
      Ready (.tableWrite tag 4#8 first count (run.flatMap BellEntry.bytes)) s → run.length = count.toNat + 1 →
      run.length ≤ 16 → first.toNat + run.length ≤ 64 →
      (∀ r ∈ run, r.legal = true ∧ r.weekdays.toNat < 128 ∧ r.outputs.toNat < 16) →
      ∃ u : State, exec (.tableWrite tag 4#8 first count (run.flatMap BellEntry.bytes)) s = .next (u.reply 4#8 tag .ok [])
        ∧ u = { s.taken with schedule := u.schedule }
        ∧ (∀ k r, run[k]? = some r → u.bellEntry (first.toNat + k) = r)
        ∧ ∀ i, i < first.toNat ∨ first.toNat + run.length ≤ i → u.bellEntry i = s.bellEntry i)
    ∧ (∀ (tag first count : Byte) (run : List Pattern) (s : State),
      Ready (.tableWrite tag 5#8 first count (run.flatMap Pattern.bytes)) s → run.length = count.toNat + 1 →
      run.length ≤ 16 → first.toNat + run.length ≤ 16 →
      (∀ r ∈ run, r.segments.length = 8 ∧ (∀ g ∈ r.segments, g.duration ≤ 63) ∧ 1 ≤ r.repeats ∧ r.repeats ≤ 15) →
      ∃ u : State, exec (.tableWrite tag 5#8 first count (run.flatMap Pattern.bytes)) s = .next (u.reply 4#8 tag .ok [])
        ∧ u = { s.taken with patterns := u.patterns }
        ∧ (∀ k r, run[k]? = some r → u.pattern (first.toNat + k) = r)
        ∧ ∀ i, i < first.toNat ∨ first.toNat + run.length ≤ i → u.pattern i = s.pattern i)

/-- A LANE write of one record: an enabled, direction or fail byte outside its set is refused and nothing is written.
Otherwise its direction, fail policy and crew mask are stored, its times are brought to their limits and the reply says
so; a lane that becomes enabled goes to IDLE with its poll timer started; one that becomes disabled goes to DISABLED, its
timers stopped, a punch it holds given up with its UNUSED entry (`unusedEntry`), its conditions cleared with their change
flags, and one ALERT for each flag that goes from clear to set (`State.clearedAlerts`), after that entry (the model's
reading, log entry 13, DEDUCED) and in an order that is a free value (log entry 7, DESIGN CHOICE); a lane whose enabled
field stays keeps its running state; no other lane and nothing else changes. A write of several records, said for runs
whose times lie within their limits, stores and acts so at every lane of its run, in ascending order (that all are stored
before a lane acts is the model's reading, log entry 19, DEDUCED). That the reply's frame comes after the notices and alerts
of the step is the model's reading (log entry 12, DEDUCED). -/
def Obligations.LaneWriteActs : Prop :=
  (∀ (tag lane : Byte) (enabled dir fail rt h1 h2 w m1 m2 : Byte) (s : State),
    Ready (.tableWrite tag 6#8 lane 0#8 [enabled, dir, fail, rt, h1, h2, w, m1, m2]) s → lane.toNat < 16 →
    (1 < enabled.toNat ∨ 2 < dir.toNat ∨ 1 < fail.toNat →
      exec (.tableWrite tag 6#8 lane 0#8 [enabled, dir, fail, rt, h1, h2, w, m1, m2]) s =
        .next (s.taken.reply 4#8 tag .badValue []))
    ∧ (enabled.toNat ≤ 1 → dir.toNat ≤ 2 → fail.toNat ≤ 1 →
    ∃ u v : State, exec (.tableWrite tag 6#8 lane 0#8 [enabled, dir, fail, rt, h1, h2, w, m1, m2]) s =
        .next (u.reply 4#8 tag
          (if 1 ≤ rt.toNat ∧ rt.toNat ≤ 30 ∧ 5 ≤ nat16 h1 h2 ∧ nat16 h1 h2 ≤ 300 ∧ 1 ≤ w.toNat ∧ w.toNat ≤ 31 then .ok
            else .clamped) [])
      ∧ (u.laneRecord lane.toNat).enabled = decide (enabled.toNat = 1)
      ∧ (u.laneRecord lane.toNat).direction =
          (if dir.toNat = 0 then .onlyIn else if dir.toNat = 1 then .onlyOut else .dual)
      ∧ (u.laneRecord lane.toNat).fail = (if fail.toNat = 1 then .opens else .secure)
      ∧ (u.laneRecord lane.toNat).releaseTime = max 1 (min rt.toNat 30)
      ∧ (u.laneRecord lane.toNat).heldTime = max 5 (min (nat16 h1 h2) 300)
      ∧ (u.laneRecord lane.toNat).window = max 1 (min w.toNat 31)
      ∧ (u.laneRecord lane.toNat).crewMask = half m1 m2
      ∧ (∀ n, n ≠ lane.toNat → u.laneRecord n = s.laneRecord n ∧ u.lane n = s.lane n)
      ∧ ((s.laneRecord lane.toNat).enabled = decide (enabled.toNat = 1) → u.lane lane.toNat = s.lane lane.toNat)
      ∧ ((s.laneRecord lane.toNat).enabled = false → enabled.toNat = 1 →
          u.lane lane.toNat =
            { s.lane lane.toNat with
              state := .idle, missed := 0, good := 0, lastBit := none, pollTimer := some s.part.pollInterval })
      ∧ ((s.laneRecord lane.toNat).enabled = true → enabled.toNat = 0 →
          u.lane lane.toNat =
            { s.lane lane.toNat with
              state := .disabled, releaseTimer := none, heldTimer := none, punch := none, pollTimer := none
              replyWindow := none, conditions := LaneConditions.clear
              changes := (s.lane lane.toNat).changes.union (s.lane lane.toNat).conditions })
      ∧ ((s.laneRecord lane.toNat).enabled = false ∨ enabled.toNat = 1 → v = s ∧ u.link.upQueue = s.link.upQueue)
      ∧ ((s.laneRecord lane.toNat).enabled = true → enabled.toNat = 0 →
          v = s.gaveUp lane.toNat ∧ Alerts v u (v.clearedAlerts lane.toNat))
      ∧ u = { v.taken with
          laneTable := u.laneTable, lanes := u.lanes, link := { v.taken.link with upQueue := u.link.upQueue } }))
    ∧ ∀ (tag first count : Byte) (run : List LaneRecord) (s : State),
      Ready (.tableWrite tag 6#8 first count (run.flatMap LaneRecord.bytes)) s → run.length = count.toNat + 1 →
      first.toNat + run.length ≤ 16 →
      (∀ r ∈ run, 1 ≤ r.releaseTime ∧ r.releaseTime ≤ 30 ∧ 5 ≤ r.heldTime ∧ r.heldTime ≤ 300 ∧ 1 ≤ r.window
        ∧ r.window ≤ 31) →
      ∃ u : State, exec (.tableWrite tag 6#8 first count (run.flatMap LaneRecord.bytes)) s =
          .next (u.reply 4#8 tag .ok [])
        ∧ (∀ k r, run[k]? = some r →
            u.laneRecord (first.toNat + k) = r
            ∧ ((s.laneRecord (first.toNat + k)).enabled = r.enabled →
                u.lane (first.toNat + k) = s.lane (first.toNat + k))
            ∧ ((s.laneRecord (first.toNat + k)).enabled = false → r.enabled = true →
                u.lane (first.toNat + k) =
                  { s.lane (first.toNat + k) with
                    state := .idle, missed := 0, good := 0, lastBit := none, pollTimer := some s.part.pollInterval })
            ∧ ((s.laneRecord (first.toNat + k)).enabled = true → r.enabled = false →
                u.lane (first.toNat + k) =
                  { s.lane (first.toNat + k) with
                    state := .disabled, releaseTimer := none, heldTimer := none, punch := none, pollTimer := none
                    replyWindow := none, conditions := LaneConditions.clear
                    changes := (s.lane (first.toNat + k)).changes.union (s.lane (first.toNat + k)).conditions }))
        ∧ (∀ n, n < first.toNat ∨ first.toNat + run.length ≤ n →
            u.laneRecord n = s.laneRecord n ∧ u.lane n = s.lane n)
        ∧ ∃ sent : Nat → State, sent 0 = s
          ∧ (∀ k r, run[k]? = some r →
              ((s.laneRecord (first.toNat + k)).enabled = false ∨ r.enabled = true → sent (k + 1) = sent k)
              ∧ ((s.laneRecord (first.toNat + k)).enabled = true → r.enabled = false →
                ∃ v : State, v = (sent k).gaveUp (first.toNat + k)
                  ∧ sent (k + 1) = { v with link := { v.link with upQueue := (sent (k + 1)).link.upQueue } }
                  ∧ Alerts v (sent (k + 1)) (v.clearedAlerts (first.toNat + k))))
          ∧ u = { (sent run.length).taken with laneTable := u.laneTable, lanes := u.lanes }

/-- A PART write with a refusable field outside its set is refused whole. Otherwise the record is replaced, its three
clampable fields brought to their limits and the reply saying so, JOURNAL_HIGH's change flag sets when the new high
mark changes that condition, with one ALERT of JOURNAL_HIGH when the flag was clear (by the new global alert enable, log
entry 28, DEDUCED), before the reply's frame (the model's reading, log entry 12, DEDUCED), and nothing else changes but the
reply. -/
def Obligations.PartWriteReplaces : Prop :=
  ∀ (tag p h1 h2 lv g d n1 n2 e1 e2 ws ev al po ex : Byte) (s : State),
    Ready (.tableWrite tag 7#8 0#8 0#8 [p, h1, h2, lv, g, d, n1, n2, e1, e2, ws, ev, al, po, ex]) s →
    ((1 < p.toNat ∨ 1 < lv.toNat ∨ 1 < al.toNat ∨ 1 < ex.toNat ∨ nat16 h1 h2 < 64 ∨ 2047 < nat16 h1 h2
        ∨ 1439 < nat16 n1 n2 ∨ 1439 < nat16 e1 e2 ∨ 6 < ws.toNat ∨ 15 < ev.toNat) →
      exec (.tableWrite tag 7#8 0#8 0#8 [p, h1, h2, lv, g, d, n1, n2, e1, e2, ws, ev, al, po, ex]) s =
        .next (s.taken.reply 4#8 tag .badValue []))
    ∧ (p.toNat ≤ 1 → lv.toNat ≤ 1 → al.toNat ≤ 1 → ex.toNat ≤ 1 → 64 ≤ nat16 h1 h2 → nat16 h1 h2 ≤ 2047 →
        nat16 n1 n2 ≤ 1439 → nat16 e1 e2 ≤ 1439 → ws.toNat ≤ 6 → ev.toNat ≤ 15 →
      ∃ u : State, exec (.tableWrite tag 7#8 0#8 0#8 [p, h1, h2, lv, g, d, n1, n2, e1, e2, ws, ev, al, po, ex]) s =
          .next (u.reply 4#8 tag
            (if 1 ≤ g.toNat ∧ g.toNat ≤ 10 ∧ 1 ≤ d.toNat ∧ d.toNat ≤ 10 ∧ 20 ≤ po.toNat ∧ po.toNat ≤ 200 then .ok
              else .clamped) [])
        ∧ u.part =
            { wrap := decide (p.toNat = 1), highMark := nat16 h1 h2, liveNotices := decide (lv.toNat = 1)
              gatherWindow := max 1 (min g.toNat 10), duplicateWindow := max 1 (min d.toNat 10)
              nightStart := nat16 n1 n2, nightEnd := nat16 e1 e2, weekStart := ws.toNat, evacPattern := ev.toNat
              alertEnable := decide (al.toNat = 1), pollInterval := max 20 (min po.toNat 200)
              extendedLoss := decide (ex.toNat = 1) }
        ∧ u.changes =
            { s.changes with
              journalHigh := s.changes.journalHigh ||
                (decide (s.part.highMark ≤ s.journal.entries.length)
                  != decide (nat16 h1 h2 ≤ s.journal.entries.length)) }
        ∧ Alerts s u
            (({ s with part := u.part } : State).alertOf
              (!s.changes.journalHigh
                && (decide (s.part.highMark ≤ s.journal.entries.length)
                  != decide (nat16 h1 h2 ≤ s.journal.entries.length)))
              4 255 (if nat16 h1 h2 ≤ s.journal.entries.length then 1 else 0))
        ∧ u = { s.taken with
            part := u.part, changes := u.changes, link := { s.taken.link with upQueue := u.link.upQueue } })

/-- A request that no row takes is answered BAD_VALUE, or, for a LANE COMMAND or LANE COUNTERS of the right length whose
lane or selector fails first, BAD_INDEX; nothing else changes, and a broadcast gets no reply. That a LANE COMMAND or LANE
COUNTERS with a command or operation byte outside its set is a request of this row is the model's reading (log entry 11,
DEDUCED). -/
def Obligations.UnknownRequestIsAnswered : Prop :=
  ∀ (r : Request) (s : State), Ready (.unknownRequest r) s →
    ∃ code, exec (.unknownRequest r) s = .next (s.taken.replyUnless r.broadcast r.kind r.tag code [])
      ∧ (r.kind ≠ 48#8 → r.kind ≠ 49#8 → code = .badValue)
      ∧ (r.payload.length ≠ 2 → code = .badValue)
      ∧ (∀ l c, r.kind = 48#8 → r.payload = [l, c] → code = if 15 < l.toNat then .badIndex else .badValue)
      ∧ ∀ o l, r.kind = 49#8 → r.payload = [o, l] →
          code = if l.toNat ≤ 15 ∨ l = 255#8 then .badValue else .badIndex

/-- A frame laid out by R186 on the upward port: its own address offers it as a request, address 31 forwards it and
offers the four broadcast kinds, another address forwards it; with the upward bit, or a CRC that does not match, it
is discarded and counted. A good upward frame on the downward port enters the forwarding buffer unchanged, or is
discarded and counted when that holds 2; with the upward bit clear or a bad CRC it is discarded and counted. On either
port a length above 240 is counted, and the receiver is then between frames; that it goes on with the byte after the
length is the model's reading (log entry 27, DEDUCED). Bytes before a marker are passed over; the first bytes of a frame
are held and change nothing else, and bytes that arrive in two commands act as when they arrive in one, which is the
model's reading (log entry 26, DEDUCED). A frame forwarded
downward enters its buffer, or is discarded and counted when that holds 2. A request offered is stored as the newest, or
discarded and counted when the buffer holds 2. -/
def Obligations.FramesAreRouted : Prop :=
  (∀ (address kind tag digest : Byte) (payload : List Byte) (s : State), payload.length ≤ 240 → s.running = true →
    s.link.upPartial = [] →
    ∀ covered, covered = [165#8, address, kind, tag, digest, BitVec.ofNat 8 payload.length] ++ payload →
    (address.toNat < 128 → address.toNat % 32 = s.link.address →
      exec (.downwardFrameReceived (covered ++ crc16Bytes covered)) s =
        .next (offerRequest ⟨false, kind, tag, payload⟩ s))
    ∧ (address.toNat < 128 → address.toNat % 32 ≠ s.link.address → address.toNat % 32 = 31 →
      exec (.downwardFrameReceived (covered ++ crc16Bytes covered)) s =
        .next
          (if kind = 16#8 ∨ kind = 17#8 ∨ kind = 96#8 ∨ kind = 112#8 then
            offerRequest ⟨true, kind, tag, payload⟩ (forwardDown (covered ++ crc16Bytes covered) s)
          else forwardDown (covered ++ crc16Bytes covered) s))
    ∧ (address.toNat < 128 → address.toNat % 32 ≠ s.link.address → address.toNat % 32 ≠ 31 →
      exec (.downwardFrameReceived (covered ++ crc16Bytes covered)) s =
        .next (forwardDown (covered ++ crc16Bytes covered) s))
    ∧ (128 ≤ address.toNat →
      exec (.downwardFrameReceived (covered ++ crc16Bytes covered)) s =
        .next { s with link := { s.link with frameErrors := min (s.link.frameErrors + 1) 65535 } })
    ∧ (∀ c1 c2, [c1, c2] ≠ crc16Bytes covered →
      exec (.downwardFrameReceived (covered ++ [c1, c2])) s =
        .next { s with link := { s.link with frameErrors := min (s.link.frameErrors + 1) 65535 } })
    ∧ ∀ n, n < payload.length + 8 →
      exec (.downwardFrameReceived ((covered ++ crc16Bytes covered).take n)) s =
        .next { s with link := { s.link with upPartial := (covered ++ crc16Bytes covered).take n } })
    ∧ (∀ (address kind tag digest : Byte) (payload : List Byte) (s : State), payload.length ≤ 240 → s.running = true →
      s.link.downPartial = [] →
      ∀ covered, covered = [165#8, address, kind, tag, digest, BitVec.ofNat 8 payload.length] ++ payload →
      (128 ≤ address.toNat → s.link.upForward.length < 2 →
        exec (.upwardFrameReceived (covered ++ crc16Bytes covered)) s =
          .next { s with link := { s.link with upForward := s.link.upForward ++ [covered ++ crc16Bytes covered] } })
      ∧ (128 ≤ address.toNat → 2 ≤ s.link.upForward.length →
        exec (.upwardFrameReceived (covered ++ crc16Bytes covered)) s =
          .next { s with link := { s.link with forwardDrops := min (s.link.forwardDrops + 1) 65535 } })
      ∧ (address.toNat < 128 →
        exec (.upwardFrameReceived (covered ++ crc16Bytes covered)) s =
          .next { s with link := { s.link with frameErrors := min (s.link.frameErrors + 1) 65535 } })
      ∧ (∀ c1 c2, [c1, c2] ≠ crc16Bytes covered →
        exec (.upwardFrameReceived (covered ++ [c1, c2])) s =
          .next { s with link := { s.link with frameErrors := min (s.link.frameErrors + 1) 65535 } })
      ∧ ∀ n, n < payload.length + 8 →
        exec (.upwardFrameReceived ((covered ++ crc16Bytes covered).take n)) s =
          .next { s with link := { s.link with downPartial := (covered ++ crc16Bytes covered).take n } })
    ∧ (∀ (address kind tag digest length : Byte) (s : State), 240 < length.toNat → s.running = true →
      (s.link.upPartial = [] →
        exec (.downwardFrameReceived [165#8, address, kind, tag, digest, length]) s =
          .next { s with link := { s.link with frameErrors := min (s.link.frameErrors + 1) 65535 } })
      ∧ (s.link.downPartial = [] →
        exec (.upwardFrameReceived [165#8, address, kind, tag, digest, length]) s =
          .next { s with link := { s.link with frameErrors := min (s.link.frameErrors + 1) 65535 } }))
    ∧ (∀ (bytes more : List Byte) (s : State),
      (165#8 ∉ bytes → s.link.upPartial = [] → exec (.downwardFrameReceived bytes) s = .next s)
      ∧ (165#8 ∉ bytes → s.link.downPartial = [] → exec (.upwardFrameReceived bytes) s = .next s)
      ∧ (∀ t, exec (.downwardFrameReceived bytes) s = .next t →
          exec (.downwardFrameReceived (bytes ++ more)) s = exec (.downwardFrameReceived more) t)
      ∧ ∀ t, exec (.upwardFrameReceived bytes) s = .next t →
          exec (.upwardFrameReceived (bytes ++ more)) s = exec (.upwardFrameReceived more) t)
    ∧ (∀ (raw : List Byte) (s : State),
      (s.link.downForward.length < 2 →
        forwardDown raw s = { s with link := { s.link with downForward := s.link.downForward ++ [raw] } })
      ∧ (2 ≤ s.link.downForward.length →
        forwardDown raw s = { s with link := { s.link with forwardDrops := min (s.link.forwardDrops + 1) 65535 } }))
    ∧ (∀ (r : Request) (s : State),
      (s.link.requests.length < 2 →
        offerRequest r s = { s with link := { s.link with requests := s.link.requests ++ [r] } })
      ∧ (2 ≤ s.link.requests.length →
        offerRequest r s = { s with link := { s.link with requestDrops := min (s.link.requestDrops + 1) 65535 } }))

/-- The upward transmitter takes the source that alone holds a frame, and of two the one it did not take last; its own
frame leaves with the part's address and upward bit, kind, tag, the digest of that moment, length, payload and CRC,
a forwarded one unchanged; the downward one sends its oldest frame. The eight bits of the digest are those of R194. -/
def Obligations.TransmittersSend : Prop :=
  ((∀ (s : State) (f : UpFrame) (rest : List UpFrame), s.running = true → s.link.restart = none →
      s.link.upQueue = f :: rest → s.link.upForward = [] ∨ s.link.lastSource = some .forward →
      ∃ covered, covered =
          [165#8, BitVec.ofNat 8 (128 + s.link.address), f.kind, f.tag, s.digest] ++ be8 f.payload.length ++ f.payload
        ∧ exec .upwardTransmit s =
          .next { s with link := { s.link with
            upQueue := rest, upLine := some (covered ++ crc16Bytes covered), lastSource := some .own } })
    ∧ (∀ (s : State) (f : List Byte) (rest : List (List Byte)), s.running = true → s.link.restart = none →
        s.link.upForward = f :: rest → s.link.upQueue = [] ∨ s.link.lastSource = some .own →
        exec .upwardTransmit s =
          .next { s with link := { s.link with upForward := rest, upLine := some f, lastSource := some .forward } })
    ∧ ∀ (s : State) (f : List Byte) (rest : List (List Byte)), s.running = true → s.link.downForward = f :: rest →
        exec .downwardForwardSend s =
          .next { s with link := { s.link with downForward := rest, downLine := some f } })
    ∧ (∀ s : State,
      s.digest.getLsbD 0 = s.clock.valid ∧ s.digest.getLsbD 1 = s.evac.evacuating
      ∧ (s.digest.toNat / 4) % 4 =
          (match s.close.phase with | .idle => 0 | .gathering => 1 | .walking => 2 | .suspended => 3)
      ∧ s.digest.getLsbD 4 = decide (s.part.highMark ≤ s.journal.entries.length)
      ∧ s.digest.getLsbD 5 = decide (s.journal.entries.length = 2048)
      ∧ (s.digest.getLsbD 6 = true ↔
          ∃ n, n < 16 ∧ (s.laneRecord n).enabled = true
            ∧ ((s.lane n).conditions.lost = true ∨ (s.lane n).conditions.forced = true
              ∨ (s.lane n).conditions.held = true ∨ (s.lane n).conditions.tamper = true))
      ∧ (s.digest.getLsbD 7 = true ↔
          (∃ n, n < 16
            ∧ ((s.lane n).changes.lost = true ∨ (s.lane n).changes.forced = true ∨ (s.lane n).changes.held = true
              ∨ (s.lane n).changes.tamper = true))
          ∨ s.changes.journalHigh = true ∨ s.changes.journalFull = true ∨ s.changes.evacuating = true
          ∨ s.changes.closeDone = true))

/-! ## The Worker Table and the Badge Map -/

/-- WORKER SET: its refusals; on a FREE record a fresh record with the current generation as its close mark, on a record
in use the four fields replaced. WORKER FREE: OK on a FREE record, NOT_PERMITTED, BUSY, or the record zeroed with
every badge map entry of its index gone. PRESENCE SET: its refusals; the presence and inside count, a voided
attendance with OUTSIDE, an unaccounted worker accounted, and the OVERRIDE entry, whose notice and alerts come before the
reply's frame (the model's reading, log entry 12, DEDUCED). No other record and nothing else changes. -/
def Obligations.WorkerTableWrites : Prop :=
  (∀ (tag : Byte) (index : Half) (status crew rateClass flags : Byte) (s : State),
    Ready (.workerSet tag index status crew rateClass flags) s →
    (4096 ≤ index.toNat →
      exec (.workerSet tag index status crew rateClass flags) s = .next (s.taken.reply 32#8 tag .badIndex []))
    ∧ (index.toNat < 4096 → (status.toNat = 0 ∨ 2 < status.toNat ∨ 15 < crew.toNat ∨ 15 < rateClass.toNat) →
      exec (.workerSet tag index status crew rateClass flags) s = .next (s.taken.reply 32#8 tag .badValue []))
    ∧ (index.toNat < 4096 → status.toNat = 1 ∨ status.toNat = 2 → crew.toNat ≤ 15 → rateClass.toNat ≤ 15 →
      ∃ u : State, exec (.workerSet tag index status crew rateClass flags) s = .next (u.reply 32#8 tag .ok [])
        ∧ u = { s.taken with workers := u.workers }
        ∧ (∀ j, j ≠ index.toNat → u.worker j = s.worker j)
        ∧ u.worker index.toNat =
            { (if (s.worker index.toNat).status = .free then { Worker.zeroed with closeMark := s.close.gen }
                else s.worker index.toNat) with
              status := if status.toNat = 1 then .active else .suspended
              crew := crew.toNat, rateClass := rateClass.toNat, anytime := flags.getLsbD 0
              payhold := flags.getLsbD 1 }))
    ∧ (∀ (tag : Byte) (index : Half) (s : State), Ready (.workerFree tag index) s →
      (4096 ≤ index.toNat → exec (.workerFree tag index) s = .next (s.taken.reply 33#8 tag .badIndex []))
      ∧ (index.toNat < 4096 → (s.worker index.toNat).status = .free →
        exec (.workerFree tag index) s = .next (s.taken.reply 33#8 tag .ok []))
      ∧ (index.toNat < 4096 → (s.worker index.toNat).status ≠ .free →
        ((s.worker index.toNat).presence = .inside ∨ (s.worker index.toNat).attendance ≠ none
          ∨ (s.worker index.toNat).muster = .unaccounted) →
        exec (.workerFree tag index) s = .next (s.taken.reply 33#8 tag .notPermitted []))
      ∧ (index.toNat < 4096 → (s.worker index.toNat).status ≠ .free → (s.worker index.toNat).presence ≠ .inside →
        (s.worker index.toNat).attendance = none → (s.worker index.toNat).muster ≠ .unaccounted →
        ((∃ n p, n < 16 ∧ (s.lane n).state = .released ∧ (s.lane n).punch = some p ∧ p.worker = index.toNat) →
          exec (.workerFree tag index) s = .next (s.taken.reply 33#8 tag .busy []))
        ∧ ((¬ ∃ n p, n < 16 ∧ (s.lane n).state = .released ∧ (s.lane n).punch = some p ∧ p.worker = index.toNat) →
          ∃ u : State, exec (.workerFree tag index) s = .next (u.reply 33#8 tag .ok [])
            ∧ u = { s.taken with workers := u.workers, badges := s.badges.filter fun e => decide (e.2 ≠ index.toNat) }
            ∧ u.worker index.toNat = Worker.zeroed ∧ ∀ j, j ≠ index.toNat → u.worker j = s.worker j)))
    ∧ (∀ (tag : Byte) (index : Half) (presence : Byte) (s : State), Ready (.presenceSet tag index presence) s →
      (4096 ≤ index.toNat → exec (.presenceSet tag index presence) s = .next (s.taken.reply 34#8 tag .badIndex []))
      ∧ (index.toNat < 4096 → 2 < presence.toNat →
        exec (.presenceSet tag index presence) s = .next (s.taken.reply 34#8 tag .badValue []))
      ∧ (index.toNat < 4096 → presence.toNat ≤ 2 → (s.worker index.toNat).status = .free →
        exec (.presenceSet tag index presence) s = .next (s.taken.reply 34#8 tag .notPermitted []))
      ∧ (index.toNat < 4096 → (s.worker index.toNat).status ≠ .free → ∀ p, presenceOf presence = some p →
        ∃ u : State, exec (.presenceSet tag index presence) s =
            .next
              ((offerEntry
                (.override_ index.toNat (s.worker index.toNat).presence p
                  (decide (p = .outside) && (s.worker index.toNat).attendance.isSome)) u).reply 34#8 tag .ok [])
          ∧ u = { s.taken with workers := u.workers, insideCount := u.insideCount, evac := u.evac }
          ∧ u.worker index.toNat =
              { s.worker index.toNat with
                presence := p
                attendance := if p = .outside then none else (s.worker index.toNat).attendance
                muster := if (s.worker index.toNat).muster = .unaccounted then .accounted
                  else (s.worker index.toNat).muster }
          ∧ (∀ j, j ≠ index.toNat → u.worker j = s.worker j)
          ∧ u.insideCount =
              (if p = .inside ∧ (s.worker index.toNat).presence ≠ .inside then s.insideCount + 1
                else if p ≠ .inside ∧ (s.worker index.toNat).presence = .inside then s.insideCount - 1
                else s.insideCount)
          ∧ u.evac =
              { s.evac with unaccounted :=
                  if (s.worker index.toNat).muster = .unaccounted then s.evac.unaccounted - 1 else s.evac.unaccounted }))

/-- WORKER READ, CLOSED READ and MUSTER READ refuse a run past index 4095 or longer than 16 and otherwise return their
records in order. MUSTER LIST refuses an index above 4095 and otherwise returns the unaccounted count, up to 16
indexes of UNACCOUNTED records from the start index on, ascending, and the index to go on with, or END. Nothing else
changes. A record of WORKER READ: status, crew, rate class, flags, presence; the attendance with its state 0 absent, 1
unscheduled or 2 scheduled, each item 0 where not present; the two tallies, an empty one with key 65,535 and minutes that
are a free value (log entry 10, DESIGN CHOICE); close mark and muster mark. The bytes of instance bounds are said for gate
times; those of a bound that is none are a free value (log entry 5, DESIGN CHOICE). -/
def Obligations.RecordReadsReply : Prop :=
  (∀ (tag : Byte) (first : Half) (count : Byte) (s : State),
    (Ready (.workerRead tag first count) s →
      (15 < count.toNat ∨ 4096 < first.toNat + count.toNat + 1 →
        exec (.workerRead tag first count) s = .next (s.taken.reply 35#8 tag .badIndex []))
      ∧ (count.toNat ≤ 15 → first.toNat + count.toNat + 1 ≤ 4096 →
        exec (.workerRead tag first count) s =
          .next (s.taken.reply 35#8 tag .ok
            ((List.range (count.toNat + 1)).flatMap fun k => (s.worker (first.toNat + k)).bytes))))
    ∧ (Ready (.closedRead tag first count) s →
      (15 < count.toNat ∨ 4096 < first.toNat + count.toNat + 1 →
        exec (.closedRead tag first count) s = .next (s.taken.reply 66#8 tag .badIndex []))
      ∧ (count.toNat ≤ 15 → first.toNat + count.toNat + 1 ≤ 4096 →
        exec (.closedRead tag first count) s =
          .next (s.taken.reply 66#8 tag .ok
            ((List.range (count.toNat + 1)).flatMap fun k =>
              be16 (s.worker (first.toNat + k)).closed.regular ++ be16 (s.worker (first.toNat + k)).closed.ot1
                ++ be16 (s.worker (first.toNat + k)).closed.ot2 ++ be16 (s.worker (first.toNat + k)).closed.night
                ++ be32 (s.worker (first.toNat + k)).closed.pay ++ be16 (s.worker (first.toNat + k)).closed.pairings
                ++ [(s.worker (first.toNat + k)).closedGen] ++ be32 (s.worker (first.toNat + k)).closedAt)))))
    ∧ (∀ w : Worker, ∃ attendance day week : List Byte,
      w.bytes =
          be8 (match w.status with | .free => 0 | .active => 1 | .suspended => 2) ++ be8 w.crew ++ be8 w.rateClass
            ++ be8 ((if w.anytime then 1 else 0) + if w.payhold then 2 else 0)
            ++ be8 (match w.presence with | .outside => 0 | .inside => 1 | .unknown => 2)
            ++ attendance ++ day ++ week ++ [w.closeMark]
            ++ be8 (match w.muster with | .none => 0 | .unaccounted => 1 | .accounted => 2)
      ∧ (w.attendance = none → attendance = List.replicate 25 0#8)
      ∧ (∀ a, w.attendance = some a → a.scheduled = none →
          attendance =
            [1#8] ++ be32 a.inTime ++ List.replicate 9 0#8 ++ be16 a.dayKey ++ be32 a.deadline
              ++ be8 ((if a.carried then 1 else 0) + if a.breakTaken then 2 else 0) ++ be32 a.carriedGross)
      ∧ (∀ a c, w.attendance = some a → a.scheduled = some c → c.start ≤ 4294967295 → c.stop ≤ 4294967295 →
          attendance =
            [2#8] ++ be32 a.inTime ++ be8 c.shift ++ be32 c.start ++ be32 c.stop ++ be16 a.dayKey ++ be32 a.deadline
              ++ be8 ((if a.carried then 1 else 0) + if a.breakTaken then 2 else 0) ++ be32 a.carriedGross)
      ∧ ((∀ y, w.dayTally = some y → day = be16 y.key ++ be16 y.minutes)
        ∧ (w.dayTally = none → ∃ m1 m2, day = [255#8, 255#8, m1, m2]))
      ∧ (∀ y, w.weekTally = some y → week = be16 y.key ++ be16 y.minutes)
      ∧ (w.weekTally = none → ∃ m1 m2, week = [255#8, 255#8, m1, m2]))
    ∧ ((∀ (tag : Byte) (first : Half) (count : Byte) (s : State), Ready (.musterRead tag first count) s →
        (15 < count.toNat ∨ 4096 < first.toNat + count.toNat + 1 →
          exec (.musterRead tag first count) s = .next (s.taken.reply 114#8 tag .badIndex []))
        ∧ (count.toNat ≤ 15 → first.toNat + count.toNat + 1 ≤ 4096 →
          exec (.musterRead tag first count) s =
            .next (s.taken.reply 114#8 tag .ok
              (be8 (if s.evac.evacuating then 1 else 0)
                ++ be8 ((if s.evac.causes.fire then 1 else 0) + (if s.evac.causes.command then 2 else 0)
                  + if s.evac.causes.chain then 4 else 0)
                ++ be8 (if s.evac.causes.fire || s.evac.causes.command then 1 else 0)
                ++ be8 (if s.evac.armed then 0 else 1)
                ++ (match s.evac.snapshot with
                  | .time v => 0#8 :: be32 v
                  | .unset => [1#8, 0#8, 0#8, 0#8, 0#8]
                  | .never => [2#8, 0#8, 0#8, 0#8, 0#8])
                ++ be16 s.evac.rollSize ++ be16 s.evac.unaccounted
                ++ (List.range (count.toNat + 1)).flatMap fun k =>
                  be8 (match (s.worker (first.toNat + k)).muster with
                      | .none => 0
                      | .unaccounted => 1
                      | .accounted => 2)
                    ++ be8 (match (s.worker (first.toNat + k)).presence with
                      | .outside => 0
                      | .inside => 1
                      | .unknown => 2)))))
      ∧ ∀ (tag : Byte) (start : Half) (s : State), Ready (.musterList tag start) s →
          (4096 ≤ start.toNat → exec (.musterList tag start) s = .next (s.taken.reply 115#8 tag .badIndex []))
          ∧ (start.toNat < 4096 → Table.wf Worker.zeroed s.workers = true →
            ∃ l : List Nat, exec (.musterList tag start) s =
                .next (s.taken.reply 115#8 tag .ok
                  (be16 s.evac.unaccounted ++ be8 (l.take 16).length ++ (l.take 16).flatMap be16
                    ++ be16 (if 16 < l.length then l.getD 15 0 + 1 else 65535)))
              ∧ l.Pairwise (fun a b => a < b)
              ∧ ∀ j, j ∈ l ↔ (s.worker j).muster = .unaccounted ∧ start.toNat ≤ j))

/-- TOTALS READ: a run past index 4095, or longer than 16, is refused whole with BAD_INDEX; otherwise the reply is OK
and returns, for each index of the run in ascending order, the holding entry's latch stamp and six counts; nothing
but the reply changes. -/
def Obligations.TotalsReadReplies : Prop :=
  ∀ (tag : Byte) (first : Half) (count : Byte) (s : State), Ready (.totalsRead tag first count) s →
    (15 < count.toNat ∨ 4096 < first.toNat + count.toNat + 1 →
      exec (.totalsRead tag first count) s = .next (s.taken.reply 65#8 tag .badIndex []))
    ∧ (count.toNat ≤ 15 → first.toNat + count.toNat + 1 ≤ 4096 →
      exec (.totalsRead tag first count) s =
        .next (s.taken.reply 65#8 tag .ok
          ((List.range (count.toNat + 1)).flatMap fun k =>
            stampBytes (s.holdingEntry (first.toNat + k)).stamp ++ be16 (s.holdingEntry (first.toNat + k)).bank.regular
              ++ be16 (s.holdingEntry (first.toNat + k)).bank.ot1 ++ be16 (s.holdingEntry (first.toNat + k)).bank.ot2
              ++ be16 (s.holdingEntry (first.toNat + k)).bank.night ++ be32 (s.holdingEntry (first.toNat + k)).bank.pay
              ++ be16 (s.holdingEntry (first.toNat + k)).bank.pairings)))

/-- TOTALS LATCH: a selector that is neither an index nor ALL is refused with BAD_INDEX; otherwise the holding entry of
the selected record, or of every record, takes the live counts (zeros for a FREE record) and the present stamp,
which the reply returns; the other entries and all else stand. -/
def Obligations.TotalsLatchCopies : Prop :=
  ∀ (tag : Byte) (selector : Half) (s : State), Ready (.totalsLatch tag selector) s →
    (4096 ≤ selector.toNat → selector.toNat ≠ 65535 →
      exec (.totalsLatch tag selector) s = .next (s.taken.reply 64#8 tag .badIndex []))
    ∧ (selector.toNat < 4096 ∨ selector.toNat = 65535 →
      ∃ u : State, exec (.totalsLatch tag selector) s =
          .next (u.reply 64#8 tag .ok
            (if s.clock.valid then 0#8 :: be32 s.clock.gateTime else [1#8, 0#8, 0#8, 0#8, 0#8]))
        ∧ u = { s.taken with holding := u.holding }
        ∧ (∀ i, i < 4096 → selector.toNat = i ∨ selector.toNat = 65535 →
            (u.holdingEntry i).stamp = (if s.clock.valid then .time s.clock.gateTime else .unset)
            ∧ ((s.worker i).status ≠ .free → (u.holdingEntry i).bank = (s.worker i).live)
            ∧ ((s.worker i).status = .free → (u.holdingEntry i).bank = Bank.zero))
        ∧ ∀ i, selector.toNat ≠ i → selector.toNat ≠ 65535 → u.holdingEntry i = s.holdingEntry i)

/-- BADGE ADD: its refusals in their order, or one entry more, after which the code finds its index and every other code
finds what it found. BADGE REMOVE: refusals, or the code no longer found and the others as before. BADGE FIND and
BADGE READ: refusals and replies. Nothing else changes. -/
def Obligations.BadgeMapRequests : Prop :=
  (∀ (tag : Byte) (code : Word) (index : Half) (s : State), Ready (.badgeAdd tag code index) s →
    (code = 0#32 ∨ code = 4294967295#32 →
      exec (.badgeAdd tag code index) s = .next (s.taken.reply 36#8 tag .badValue []))
    ∧ (code ≠ 0#32 → code ≠ 4294967295#32 →
      (4096 ≤ index.toNat → exec (.badgeAdd tag code index) s = .next (s.taken.reply 36#8 tag .badIndex []))
      ∧ (index.toNat < 4096 →
        ((s.worker index.toNat).status = .free →
          exec (.badgeAdd tag code index) s = .next (s.taken.reply 36#8 tag .notPermitted []))
        ∧ ((s.worker index.toNat).status ≠ .free →
          ((s.lookup code.toNat).isSome = true →
            exec (.badgeAdd tag code index) s = .next (s.taken.reply 36#8 tag .duplicate []))
          ∧ (s.lookup code.toNat = none →
            (8192 ≤ s.badges.length →
              exec (.badgeAdd tag code index) s = .next (s.taken.reply 36#8 tag .full []))
            ∧ (s.badges.length < 8192 →
              ∃ u : State, exec (.badgeAdd tag code index) s = .next (u.reply 36#8 tag .ok [])
                ∧ u = { s.taken with badges := u.badges }
                ∧ u.badges.length = s.badges.length + 1
                ∧ u.lookup code.toNat = some index.toNat
                ∧ ∀ c, c ≠ code.toNat → u.lookup c = s.lookup c))))))
    ∧ ((∀ (tag : Byte) (code : Word) (s : State), Ready (.badgeRemove tag code) s →
        (code = 0#32 ∨ code = 4294967295#32 →
          exec (.badgeRemove tag code) s = .next (s.taken.reply 37#8 tag .badValue []))
        ∧ (code ≠ 0#32 → code ≠ 4294967295#32 →
          (s.lookup code.toNat = none → exec (.badgeRemove tag code) s = .next (s.taken.reply 37#8 tag .notFound []))
          ∧ ((s.lookup code.toNat).isSome = true →
            ∃ u : State, exec (.badgeRemove tag code) s = .next (u.reply 37#8 tag .ok [])
              ∧ u = { s.taken with badges := u.badges } ∧ u.lookup code.toNat = none
              ∧ ∀ c, c ≠ code.toNat → u.lookup c = s.lookup c)))
      ∧ (∀ (tag : Byte) (code : Word) (s : State), Ready (.badgeFind tag code) s →
          (code = 0#32 ∨ code = 4294967295#32 →
            exec (.badgeFind tag code) s = .next (s.taken.reply 38#8 tag .badValue []))
          ∧ (code ≠ 0#32 → code ≠ 4294967295#32 →
            (s.lookup code.toNat = none → exec (.badgeFind tag code) s = .next (s.taken.reply 38#8 tag .notFound []))
            ∧ ∀ i, s.lookup code.toNat = some i →
              exec (.badgeFind tag code) s = .next (s.taken.reply 38#8 tag .ok (be16 i))))
      ∧ ∀ (tag : Byte) (first : Half) (count : Byte) (s : State), Ready (.badgeRead tag first count) s →
          (15 < count.toNat ∨ 8192 < first.toNat + count.toNat + 1 →
            exec (.badgeRead tag first count) s = .next (s.taken.reply 39#8 tag .badIndex []))
          ∧ (count.toNat ≤ 15 → first.toNat + count.toNat + 1 ≤ 8192 →
            exec (.badgeRead tag first count) s =
              .next (s.taken.reply 39#8 tag .ok
                (be16 s.badges.length
                  ++ (List.range (count.toNat + 1)).flatMap fun k =>
                    match s.badges[first.toNat + k]? with
                    | some e => be32 e.1 ++ be16 e.2
                    | none => [0#8, 0#8, 0#8, 0#8, 255#8, 255#8]))))

/-! ## The punch journal -/

/-- An entry offered takes the next number and the present time in every case; it is stored as the newest below 2048
entries, stored with the oldest discarded and counted under WRAP, lost and counted under HOLD; the journal's change
flags follow its two conditions; nothing else changes but frames sent. A stored entry, at a full journal under WRAP too, is
offered upward whole with live notices on, and with it one ALERT of JOURNAL_HIGH or JOURNAL_FULL for each change flag that
goes from clear to set, without a lane and with the new state: the queue takes them below 6 frames and drops the rest (in an
order that is a free value where several are offered at once: log entries 6 and 7, DESIGN CHOICE). With live notices off
and no condition changing no frame is sent; with them on and no condition changing the notice alone is. -/
def Obligations.EntryIsOffered : Prop :=
  (∀ (body : EntryBody) (s : State),
    ∃ t, offerEntry body s = t
      ∧ t = { s with
          journal := t.journal, changes := t.changes, link := { s.link with upQueue := t.link.upQueue } }
      ∧ t.journal.next = s.journal.next + 1
      ∧ (s.journal.entries.length < 2048 →
          t.journal.entries =
              s.journal.entries ++ [⟨s.journal.next, if s.clock.valid then some s.clock.gateTime else none, body⟩]
          ∧ t.journal.overflow = s.journal.overflow)
      ∧ (2048 ≤ s.journal.entries.length → s.part.wrap = true →
          t.journal.entries =
              s.journal.entries.tail
                ++ [⟨s.journal.next, if s.clock.valid then some s.clock.gateTime else none, body⟩]
          ∧ t.journal.overflow = min (s.journal.overflow + 1) 65535)
      ∧ (2048 ≤ s.journal.entries.length → s.part.wrap = false →
          t.journal.entries = s.journal.entries ∧ t.journal.overflow = min (s.journal.overflow + 1) 65535
          ∧ t.link = s.link ∧ t.changes = s.changes)
      ∧ t.changes =
          { s.changes with
            journalHigh := s.changes.journalHigh || (s.journalHigh != t.journalHigh)
            journalFull := s.changes.journalFull || (s.journalFull != t.journalFull) }
      ∧ (s.journal.entries.length < 2048 ∨ s.part.wrap = true →
          Alerts s t
            ((if s.part.liveNotices then
                [⟨241#8, 0#8,
                  (⟨s.journal.next, if s.clock.valid then some s.clock.gateTime else none, body⟩ : Entry).bytes⟩]
              else [])
              ++ s.alertOf (!s.changes.journalHigh && (s.journalHigh != t.journalHigh)) 4 255
                (if t.journalHigh then 1 else 0)
              ++ s.alertOf (!s.changes.journalFull && (s.journalFull != t.journalFull)) 5 255
                (if t.journalFull then 1 else 0)))
      ∧ (s.part.liveNotices = false → s.journalHigh = t.journalHigh → s.journalFull = t.journalFull →
          t.link = s.link))
    ∧ (∀ (body : EntryBody) (s : State), s.part.liveNotices = true →
      s.journal.entries.length < 2048 ∨ s.part.wrap = true →
      s.journalHigh = (offerEntry body s).journalHigh → s.journalFull = (offerEntry body s).journalFull →
      (s.link.upQueue.length < 6 →
        (offerEntry body s).link.upQueue =
          s.link.upQueue
            ++ [⟨241#8, 0#8,
                (⟨s.journal.next, if s.clock.valid then some s.clock.gateTime else none, body⟩ : Entry).bytes⟩])
      ∧ (6 ≤ s.link.upQueue.length → (offerEntry body s).link.upQueue = s.link.upQueue))

/-- JOURNAL READ: a count above 8 is refused; otherwise fill, next number and the oldest entries. JOURNAL TRIM: a count
of 0 or above 2048 is refused; otherwise the oldest entries go and the reply says how many went and which is now the
oldest. JOURNAL STATUS: an option that is neither yes nor no is refused; otherwise the journal's status, with the
overflow count cleared if asked. Nothing else changes but the journal's change flags of a trim, with one ALERT for each
that goes from clear to set (of two, in an order that is a free value: log entry 7, DESIGN CHOICE), before the reply's frame
(the model's reading, log entry 12, DEDUCED). An entry, there and in a notice, is its number, kind, time (state byte 0 and the gate time, or 1 while UNSET) and the fields of its kind, item by
item; an absent worker is 65,535, an absent reason 255, an absent verdict or before time state byte 2; an EVAC entry at END
and a CLOSE entry at START carry zeros where they have no value. The two times of a PAYLINE are said for gate times; the
bytes of a rounded time that is none are a free value (log entry 5, DESIGN CHOICE). -/
def Obligations.JournalRequestsReply : Prop :=
  (∀ (tag count : Byte) (s : State), Ready (.journalRead tag count) s →
      (7 < count.toNat → exec (.journalRead tag count) s = .next (s.taken.reply 80#8 tag .badIndex []))
      ∧ (count.toNat ≤ 7 →
        exec (.journalRead tag count) s =
          .next (s.taken.reply 80#8 tag .ok
            (be16 s.journal.entries.length ++ be32 s.journal.next.toNat
              ++ (s.journal.entries.take (count.toNat + 1)).flatMap Entry.bytes))))
    ∧ (∀ (tag : Byte) (count : Half) (s : State), Ready (.journalTrim tag count) s →
        (count.toNat = 0 ∨ 2048 < count.toNat →
          exec (.journalTrim tag count) s = .next (s.taken.reply 81#8 tag .badIndex []))
        ∧ (1 ≤ count.toNat → count.toNat ≤ 2048 →
          ∃ u : State, exec (.journalTrim tag count) s =
              .next (u.reply 81#8 tag .ok
                (be16 (min count.toNat s.journal.entries.length)
                  ++ (match s.journal.entries.drop count.toNat with
                    | e :: _ => 0#8 :: be32 e.number.toNat
                    | [] => [2#8, 0#8, 0#8, 0#8, 0#8])))
            ∧ u.journal = { s.journal with entries := s.journal.entries.drop count.toNat }
            ∧ u.changes =
                { s.changes with
                  journalHigh := s.changes.journalHigh || (s.journalHigh != u.journalHigh)
                  journalFull := s.changes.journalFull || (s.journalFull != u.journalFull) }
            ∧ Alerts s u
                (s.alertOf (!s.changes.journalHigh && (s.journalHigh != u.journalHigh)) 4 255
                    (if u.journalHigh then 1 else 0)
                  ++ s.alertOf (!s.changes.journalFull && (s.journalFull != u.journalFull)) 5 255
                    (if u.journalFull then 1 else 0))
            ∧ u = { s.taken with
                journal := u.journal, changes := u.changes
                link := { s.taken.link with upQueue := u.link.upQueue } }))
    ∧ (∀ (number : Word) (time : Option Nat) (body : EntryBody) (bytes : List Byte) (head : Nat → List Byte),
      bytes = (⟨number, time, body⟩ : Entry).bytes →
      (∀ kind, head kind =
        be32 number.toNat ++ be8 kind ++ (match time with | some v => 0#8 :: be32 v | none => [1#8, 0#8, 0#8, 0#8, 0#8])) →
      match body with
      | .punch v lane code worker dir outcome reason f =>
        bytes =
          head 0
            ++ (match v with
              | .time t => 0#8 :: be32 t
              | .unset => [1#8, 0#8, 0#8, 0#8, 0#8]
              | .never => [2#8, 0#8, 0#8, 0#8, 0#8])
            ++ be8 lane ++ be32 code ++ (match worker with | some i => be16 i | none => [255#8, 255#8])
            ++ be8 (match dir with | .inward => 0 | .outward => 1)
            ++ be8 (match outcome with | .admitted => 0 | .unused => 1 | .rejected => 2)
            ++ be8 (match reason with
              | some .malformed => 0
              | some .laneLocked => 1
              | some .unknownBadge => 2
              | some .suspended => 3
              | some .notThisLane => 4
              | some .journalFull => 5
              | some .passback => 6
              | some .outOfShift => 7
              | none => 255)
            ++ be8 (bitSet
              [f.freeLane, f.softPassback, f.passbackOut, f.reentry, f.unscheduled, f.noAttendance, f.orphanOut])
      | .payline worker rin rout r o1 o2 n p f =>
        ∀ b e : Nat, rin = b → rout = e → b ≤ 4294967295 → e ≤ 4294967295 →
          bytes =
            head 1 ++ be16 worker ++ be32 b ++ be32 e ++ be16 r ++ be16 o1 ++ be16 o2 ++ be16 n ++ be32 p
              ++ be8 (bitSet
                [f.carried, f.split, f.missedOut, f.long, f.negative, f.saturated, f.unscheduled, f.reentry])
      | .muster lane code worker result =>
        bytes =
          head 2 ++ be8 lane ++ be32 code ++ (match worker with | some i => be16 i | none => [255#8, 255#8])
            ++ be8 (match result with | .accounted => 0 | .already => 1 | .notInRoll => 2 | .unknown => 3)
      | .door lane event =>
        bytes = head 3 ++ be8 lane ++ be8 (match event with | .forced => 0 | .held => 1 | .manualPulse => 2)
      | .override_ worker before after voided =>
        bytes =
          head 4 ++ be16 worker ++ be8 (match before with | .outside => 0 | .inside => 1 | .unknown => 2)
            ++ be8 (match after with | .outside => 0 | .inside => 1 | .unknown => 2) ++ be8 (if voided then 1 else 0)
      | .evacStart c => bytes = head 5 ++ [0#8] ++ be8 (bitSet [c.fire, c.command, c.chain])
      | .evacEnd => bytes = head 5 ++ [1#8, 0#8]
      | .clock before after =>
        bytes =
          head 6 ++ (match before with | some v => 0#8 :: be32 v | none => [2#8, 0#8, 0#8, 0#8, 0#8]) ++ be32 after
      | .closeStart g crews t =>
        bytes = head 7 ++ [0#8, g] ++ be16 crews.toNat ++ be32 t ++ [0#8, 0#8, 0#8, 0#8, 0#8, 0#8]
      | .closeDone g crews t closed skipped split =>
        bytes =
          head 7 ++ [1#8, g] ++ be16 crews.toNat ++ be32 t ++ be16 closed ++ be16 skipped ++ be16 split)
    ∧ ∀ (tag clear : Byte) (s : State), Ready (.journalStatus tag clear) s →
        (1 < clear.toNat → exec (.journalStatus tag clear) s = .next (s.taken.reply 82#8 tag .badValue []))
        ∧ (clear.toNat ≤ 1 →
          exec (.journalStatus tag clear) s =
            .next
              (({ s.taken with journal :=
                    { s.journal with overflow := if clear.toNat = 1 then 0 else s.journal.overflow } }).reply 82#8 tag .ok
                (be16 s.journal.entries.length ++ be16 s.journal.overflow ++ be8 (if s.part.wrap then 1 else 0)
                  ++ be16 s.part.highMark ++ be8 (bitSet [s.journalHigh, s.journalFull])
                  ++ (match s.journal.entries with
                    | e :: _ => 0#8 :: be32 e.number.toNat
                    | [] => [2#8, 0#8, 0#8, 0#8, 0#8])
                  ++ be32 s.journal.next.toNat)))

/-! ## Lanes -/

/-- A lane above 15 is refused with BAD_INDEX. NORMAL, LOCKED and UNLOCKED complete at every lane from 0 to 15 and set the
mode; LOCKED ends a release, whose punch is given up with its UNUSED entry (`unusedEntry`), the journal, its change flags and
the upward queue being those of that offer, and as before where no punch is given up; a change from UNLOCKED restarts the
held timer of an OPEN lane. PULSE is refused by lane state, mode and evacuation in the order of the table, or releases the
lane without a punch and offers its DOOR entry. No other lane and nothing else changes. That the reply's frame comes after
the notices and alerts of an entry of the step is the model's reading (log entry 12, DEDUCED). -/
def Obligations.LaneCommandsAct : Prop :=
  (∀ (tag lane : Byte) (s : State) (i : Instr) (m : LaneMode) (n : Nat),
    (i = .laneCommandNormal tag lane ∧ m = .normal) ∨ (i = .laneCommandLocked tag lane ∧ m = .locked)
      ∨ (i = .laneCommandUnlocked tag lane ∧ m = .unlocked) →
    Ready i s → n = lane.toNat →
    (15 < n → exec i s = .next (s.taken.reply 48#8 tag .badIndex []))
    ∧ (n ≤ 15 →
      ∃ u : State, exec i s = .next (u.reply 48#8 tag .ok [])
        ∧ (∀ k, k ≠ n → u.lane k = s.lane k)
        ∧ (m = .locked → (s.lane n).state = .released →
            u = { (s.gaveUp n).taken with lanes := u.lanes }
            ∧ u.lane n = { s.lane n with mode := .locked, state := .idle, releaseTimer := none, punch := none })
        ∧ ((s.lane n).mode = .unlocked → m ≠ .unlocked → (s.lane n).state = .opened →
            u = { s.taken with lanes := u.lanes }
            ∧ u.lane n = { s.lane n with mode := m, heldTimer := some (10 * (s.laneRecord n).heldTime) })
        ∧ (¬ (m = .locked ∧ (s.lane n).state = .released) →
            ¬ ((s.lane n).mode = .unlocked ∧ m ≠ .unlocked ∧ (s.lane n).state = .opened) →
            u = { s.taken with lanes := u.lanes } ∧ u.lane n = { s.lane n with mode := m })))
    ∧ (∀ (tag lane : Byte) (s : State) (n : Nat), Ready (.laneCommandPulse tag lane) s → n = lane.toNat →
      (15 < n → exec (.laneCommandPulse tag lane) s = .next (s.taken.reply 48#8 tag .badIndex []))
      ∧ (n ≤ 15 →
        ((s.lane n).state = .disabled ∨ (s.lane n).state = .lost →
          exec (.laneCommandPulse tag lane) s = .next (s.taken.reply 48#8 tag .notPermitted []))
        ∧ ((s.lane n).state = .released ∨ (s.lane n).state = .opened →
          exec (.laneCommandPulse tag lane) s = .next (s.taken.reply 48#8 tag .busy []))
        ∧ ((s.lane n).state = .idle → (s.lane n).mode = .unlocked →
          exec (.laneCommandPulse tag lane) s = .next (s.taken.reply 48#8 tag .notPermitted []))
        ∧ ((s.lane n).state = .idle → (s.lane n).mode ≠ .unlocked → s.evac.evacuating = true →
          exec (.laneCommandPulse tag lane) s = .next (s.taken.reply 48#8 tag .busy []))
        ∧ ((s.lane n).state = .idle → (s.lane n).mode ≠ .unlocked → s.evac.evacuating = false →
          ∃ u : State, exec (.laneCommandPulse tag lane) s =
              .next ((offerEntry (.door n .manualPulse) u).reply 48#8 tag .ok [])
            ∧ u = { s.taken with lanes := u.lanes } ∧ (∀ k, k ≠ n → u.lane k = s.lane k)
            ∧ u.lane n =
                { s.lane n with
                  state := .released, punch := none, releaseTimer := some (10 * (s.laneRecord n).releaseTime) })))

/-- LANE COUNTERS with a selector that is neither a lane nor ALL is refused with BAD_INDEX (that READ checks it too is
the model's choice, log entry 16). LATCH copies the two counts of the selected lanes, RESET clears them, READ
returns the copies of all lanes; the other lanes and all else stand. -/
def Obligations.LaneCountersAct : Prop :=
  ∀ (tag sel : Byte) (s : State),
    (15 < sel.toNat → sel ≠ 255#8 →
      (Ready (.laneCountersLatch tag sel) s →
        exec (.laneCountersLatch tag sel) s = .next (s.taken.reply 49#8 tag .badIndex []))
      ∧ (Ready (.laneCountersRead tag sel) s →
        exec (.laneCountersRead tag sel) s = .next (s.taken.reply 49#8 tag .badIndex []))
      ∧ (Ready (.laneCountersReset tag sel) s →
        exec (.laneCountersReset tag sel) s = .next (s.taken.reply 49#8 tag .badIndex [])))
    ∧ (sel.toNat ≤ 15 ∨ sel = 255#8 →
      (Ready (.laneCountersLatch tag sel) s →
        ∃ u : State, exec (.laneCountersLatch tag sel) s = .next (u.reply 49#8 tag .ok [])
          ∧ u = { s.taken with lanes := u.lanes }
          ∧ (∀ n, n < 16 → sel.toNat = n ∨ sel = 255#8 →
              u.lane n =
                { s.lane n with
                  lineErrorsCopy := (s.lane n).lineErrors, refusalsCopy := (s.lane n).refusals })
          ∧ ∀ n, sel.toNat ≠ n → sel ≠ 255#8 → u.lane n = s.lane n)
      ∧ (Ready (.laneCountersRead tag sel) s →
        exec (.laneCountersRead tag sel) s =
          .next (s.taken.reply 49#8 tag .ok
            ((List.range 16).flatMap fun n => be16 (s.lane n).lineErrorsCopy ++ be16 (s.lane n).refusalsCopy)))
      ∧ (Ready (.laneCountersReset tag sel) s →
        ∃ u : State, exec (.laneCountersReset tag sel) s = .next (u.reply 49#8 tag .ok [])
          ∧ u = { s.taken with lanes := u.lanes }
          ∧ (∀ n, n < 16 → sel.toNat = n ∨ sel = 255#8 →
              u.lane n = { s.lane n with lineErrors := 0, refusals := 0 })
          ∧ ∀ n, sel.toNat ≠ n → sel ≠ 255#8 → u.lane n = s.lane n))

/-- When the poll timer of an enabled lane has run out, POLL goes out with the last accepted bit and the reply window
opens. A missed or bad reply ends the exchange and raises the missed count, a bad one counts a line error, and a
LOST lane's good count returns to 0. The missed or bad reply that reaches the threshold loses the lane: a release ends and
its punch is given up with an UNUSED entry, the held timer stops, an OPEN lane's FORCED and HELD clear, LOST sets, each
with its change flag; then one ALERT for each flag that goes from clear to set, with condition, lane and new state, enters
the queue or is dropped (after the UNUSED entry: the model's reading, log entry 13, DEDUCED; of several, in an order that
is a free value: log entry 7, DESIGN CHOICE). No worker record, the inside count, the clock and the evacuation state do not
change. -/
def Obligations.PollsAndMissedReplies : Prop :=
  (∀ (n : Nat) (s : State), s.running = true → n < 16 → (s.lane n).state ≠ .disabled →
    (s.lane n).pollTimer = some 0 →
    ∃ t : State, exec (.pollTimerExpiry n) s = .next t
      ∧ t = { s with lanes := t.lanes } ∧ (∀ k, k ≠ n → t.lane k = s.lane k)
      ∧ t.lane n =
          { s.lane n with
            pollTimer := none, replyWindow := some (s.laneRecord n).window, line := some (.poll (s.lane n).lastBit) })
    ∧ (∀ (n : Nat) (bad : Bool) (s : State), s.running = true → n < 16 → (s.lane n).state ≠ .disabled →
      (if bad then (s.lane n).replyWindow.isSome = true else (s.lane n).replyWindow = some 0) →
      (s.lane n).state = .lost ∨ min ((s.lane n).missed + 1) 255 < (if s.part.extendedLoss then 12 else 3) →
      ∃ t : State, exec (if bad then .laneReplyBad n else .laneReplyMissed n) s = .next t
        ∧ t = { s with lanes := t.lanes } ∧ (∀ k, k ≠ n → t.lane k = s.lane k)
        ∧ t.lane n =
            { s.lane n with
              replyWindow := none, pollTimer := some s.part.pollInterval, missed := min ((s.lane n).missed + 1) 255
              good := if (s.lane n).state = .lost then 0 else (s.lane n).good
              lineErrors := if bad then min ((s.lane n).lineErrors + 1) 65535 else (s.lane n).lineErrors })
    ∧ (∀ (n : Nat) (bad : Bool) (s : State), s.running = true → n < 16 →
      (s.lane n).state = .idle ∨ (s.lane n).state = .released ∨ (s.lane n).state = .opened →
      (if bad then (s.lane n).replyWindow.isSome = true else (s.lane n).replyWindow = some 0) →
      (if s.part.extendedLoss then 12 else 3) ≤ min ((s.lane n).missed + 1) 255 →
      ∃ t : State, exec (if bad then .laneReplyBad n else .laneReplyMissed n) s = .next t
        ∧ t = { s with
            lanes := t.lanes, journal := t.journal, changes := t.changes
            link := { s.link with upQueue := t.link.upQueue } }
        ∧ (∀ k, k ≠ n → t.lane k = s.lane k)
        ∧ (t.lane n).state = .lost ∧ (t.lane n).good = 0 ∧ (t.lane n).missed = min ((s.lane n).missed + 1) 255
        ∧ (t.lane n).lineErrors = (if bad then min ((s.lane n).lineErrors + 1) 65535 else (s.lane n).lineErrors)
        ∧ (t.lane n).replyWindow = none ∧ (t.lane n).pollTimer = some s.part.pollInterval
        ∧ (t.lane n).conditions.lost = true ∧ (t.lane n).conditions.tamper = (s.lane n).conditions.tamper
        ∧ (t.lane n).changes =
            { (s.lane n).changes with
              lost := (s.lane n).changes.lost || !(s.lane n).conditions.lost
              forced := (s.lane n).changes.forced ||
                (decide ((s.lane n).state = .opened) && (s.lane n).conditions.forced)
              held := (s.lane n).changes.held || (decide ((s.lane n).state = .opened) && (s.lane n).conditions.held) }
        ∧ (∀ v : State,
            v = (match (s.lane n).state, (s.lane n).punch with
              | .released, some p =>
                offerEntry
                  (.punch (match p.verdictTime with | some x => .time x | none => .unset) n p.code (some p.worker)
                    p.direction .unused none
                    ⟨false, decide (p.soft = some Soft.softPassback), decide (p.soft = some Soft.passbackOut), false,
                      false, false, false⟩) s
              | _, _ => s) →
            t.journal = v.journal ∧ t.changes = v.changes
            ∧ Alerts v t
                (v.alertOf (!(s.lane n).changes.lost && !(s.lane n).conditions.lost) 0 n 1
                  ++ v.alertOf
                    (decide ((s.lane n).state = .opened) && !(s.lane n).changes.forced && (s.lane n).conditions.forced)
                    1 n 0
                  ++ v.alertOf
                    (decide ((s.lane n).state = .opened) && !(s.lane n).changes.held && (s.lane n).conditions.held)
                    2 n 0))
        ∧ ((s.lane n).state = .opened →
            (t.lane n).heldTimer = none ∧ (t.lane n).conditions.forced = false ∧ (t.lane n).conditions.held = false)
        ∧ ((s.lane n).state = .released → (t.lane n).releaseTimer = none ∧ (t.lane n).punch = none)
        ∧ (∀ p, (s.lane n).state = .released → (s.lane n).punch = some p → t.journal.next = s.journal.next + 1)
        ∧ ((s.lane n).state ≠ .released → t.journal = s.journal)
        ∧ t.workers = s.workers ∧ t.insideCount = s.insideCount ∧ t.clock = s.clock ∧ t.evac = s.evac)

/-- EMPTY, or a repeat of the last accepted bit: the exchange ends, the missed count becomes 0, and a LOST lane counts
it, the second one recovering the lane to IDLE with no last bit, LOST clear with its change flag, and its ALERT when that
flag was clear. A new event at a LOST lane is acknowledged, counts as a good reply, and does nothing else: the first one is
kept as the last bit, and one that is the second good reply recovers the lane in the same way, ignored itself. No other
lane and nothing else changes. -/
def Obligations.GoodRepliesCount : Prop :=
  (∀ (n : Nat) (s : State) (i : Instr), s.awaitsReply n = true →
    (i = .headEmpty n ∨ ∃ bit, (s.lane n).lastBit = some bit
      ∧ ((∃ code key, i = .headPunch n bit code key) ∨ i = .headDoorOpen n bit ∨ i = .headDoorClosed n bit
        ∨ i = .headTamperOn n bit ∨ i = .headTamperOff n bit)) →
    ((s.lane n).state ≠ .lost →
      ∃ t : State, exec i s = .next t ∧ t = { s with lanes := t.lanes } ∧ (∀ k, k ≠ n → t.lane k = s.lane k)
        ∧ t.lane n = { s.lane n with replyWindow := none, pollTimer := some s.part.pollInterval, missed := 0 })
    ∧ ((s.lane n).state = .lost → (s.lane n).good = 0 →
      ∃ t : State, exec i s = .next t ∧ t = { s with lanes := t.lanes } ∧ (∀ k, k ≠ n → t.lane k = s.lane k)
        ∧ t.lane n =
            { s.lane n with replyWindow := none, pollTimer := some s.part.pollInterval, missed := 0, good := 1 })
    ∧ ((s.lane n).state = .lost → (s.lane n).good = 1 →
      ∃ t : State, exec i s = .next t
        ∧ t = { s with lanes := t.lanes, link := { s.link with upQueue := t.link.upQueue } }
        ∧ (∀ k, k ≠ n → t.lane k = s.lane k)
        ∧ t.lane n =
            { s.lane n with
              replyWindow := none, pollTimer := some s.part.pollInterval, state := .idle, missed := 0, good := 0
              lastBit := none, conditions := { (s.lane n).conditions with lost := false }
              changes :=
                { (s.lane n).changes with lost := (s.lane n).changes.lost || (s.lane n).conditions.lost } }
        ∧ Alerts s t (s.alertOf (!(s.lane n).changes.lost && (s.lane n).conditions.lost) 0 n 0)))
    ∧ (∀ (n : Nat) (s : State) (i : Instr) (bit : Bool), s.awaitsReply n = true → (s.lane n).state = .lost →
      (s.lane n).lastBit ≠ some bit →
      ((∃ code key, i = .headPunch n bit code key) ∨ i = .headDoorOpen n bit ∨ i = .headDoorClosed n bit
        ∨ i = .headTamperOn n bit ∨ i = .headTamperOff n bit) →
      ∃ t : State, exec i s = .next t
        ∧ t = { s with lanes := t.lanes, link := { s.link with upQueue := t.link.upQueue } }
        ∧ (∀ k, k ≠ n → t.lane k = s.lane k)
        ∧ ((s.lane n).good = 0 →
            t.link = s.link
            ∧ t.lane n =
                { s.lane n with
                  replyWindow := none, pollTimer := some s.part.pollInterval, lastBit := some bit, missed := 0
                  good := 1 })
        ∧ ((s.lane n).good = 1 →
            t.lane n =
                { s.lane n with
                  replyWindow := none, pollTimer := some s.part.pollInterval, state := .idle, missed := 0, good := 0
                  lastBit := none, conditions := { (s.lane n).conditions with lost := false }
                  changes :=
                    { (s.lane n).changes with lost := (s.lane n).changes.lost || (s.lane n).conditions.lost } }
            ∧ Alerts s t (s.alertOf (!(s.lane n).changes.lost && (s.lane n).conditions.lost) 0 n 0)))

/-- The first step of the evaluation order whose test holds gives the verdict: malformed, muster, lane locked, unknown
badge, duplicate, an accepted OUT, suspended, crew not at this lane, journal full, hard passback, out of shift, or
an accepted IN with the instance it holds and its soft flag. The direction: IN and OUT lanes give theirs; a DUAL
lane takes the key, and with key NONE an INSIDE worker goes out and any other, or a code not found, comes in.
The calendar's answer: the rota day is the entry at the difference from the anchor reduced by the rota length; an
instance starts and ends at its shift's times, a day later when its end is not after its start; the candidates at a
moment are the instance of the day and, when it crosses midnight, that of the day before; of those on shift (from the
start less the entry-open time, that bound included, to the end, that bound excluded) the one whose start is nearer is
found, on a tie the later start, and none when none is on shift. -/
def Obligations.EvaluationOrder : Prop :=
  (∀ (s : State) (lane code : Nat) (key : HeadKey),
    (code = 0 ∨ code = 4294967295 → s.judge lane code key = .refuse .malformed)
    ∧ (code ≠ 0 → code ≠ 4294967295 →
      (s.evac.evacuating = true → s.judge lane code key = .muster)
      ∧ (s.evac.evacuating = false →
        ((s.lane lane).mode = .locked → s.judge lane code key = .refuse .laneLocked)
        ∧ ((s.lane lane).mode ≠ .locked →
          (s.lookup code = none → s.judge lane code key = .refuse .unknownBadge)
          ∧ ∀ i, s.lookup code = some i →
            ((∃ lp, (s.worker i).lastPunch = some lp ∧ lp.lane = lane
                ∧ (s.clock.tickCount - lp.tick).toNat < 10 * s.part.duplicateWindow) →
              s.judge lane code key = .ignored)
            ∧ ((¬ ∃ lp, (s.worker i).lastPunch = some lp ∧ lp.lane = lane
                ∧ (s.clock.tickCount - lp.tick).toNat < 10 * s.part.duplicateWindow) →
              (s.punchDirection lane (some i) key = .outward →
                s.judge lane code key =
                  .accept ⟨code, i, .outward, s.now, none,
                    if (s.worker i).presence = .outside then some .passbackOut else none⟩)
              ∧ (s.punchDirection lane (some i) key = .inward →
                ((s.worker i).status = .suspended → s.judge lane code key = .refuse .suspended)
                ∧ ((s.worker i).status ≠ .suspended →
                  ((s.laneRecord lane).crewMask.getLsbD (s.worker i).crew = false →
                    s.judge lane code key = .refuse .notThisLane)
                  ∧ ((s.laneRecord lane).crewMask.getLsbD (s.worker i).crew = true →
                    (s.journal.entries.length = 2048 → s.part.wrap = false →
                      s.judge lane code key = .refuse .journalFull)
                    ∧ (¬ (s.journal.entries.length = 2048 ∧ s.part.wrap = false) →
                      ((s.worker i).presence = .inside → (s.crew (s.worker i).crew).passback = .hard →
                        s.judge lane code key = .refuse .passback)
                      ∧ (¬ ((s.worker i).presence = .inside ∧ (s.crew (s.worker i).crew).passback = .hard) →
                        (s.clock.valid = true → (s.worker i).anytime = false →
                          s.resolve (s.worker i).crew s.clock.gateTime = none →
                          s.judge lane code key = .refuse .outOfShift)
                        ∧ (s.clock.valid = true → (s.worker i).anytime = false →
                          ∀ c, s.resolve (s.worker i).crew s.clock.gateTime = some c →
                          s.judge lane code key =
                            .accept ⟨code, i, .inward, some s.clock.gateTime, some c,
                              if (s.worker i).presence = .inside then some .softPassback else none⟩)
                        ∧ (s.clock.valid = false ∨ (s.worker i).anytime = true →
                          s.judge lane code key =
                            .accept ⟨code, i, .inward, s.now, none,
                              if (s.worker i).presence = .inside then some .softPassback else none⟩)))))))))))
    ∧ (∀ (s : State) (lane : Nat) (found : Option Nat) (key : HeadKey),
      ((s.laneRecord lane).direction = .onlyIn → s.punchDirection lane found key = .inward)
      ∧ ((s.laneRecord lane).direction = .onlyOut → s.punchDirection lane found key = .outward)
      ∧ ((s.laneRecord lane).direction = .dual →
        (key = .keyIn → s.punchDirection lane found key = .inward)
        ∧ (key = .keyOut → s.punchDirection lane found key = .outward)
        ∧ (key = .keyNone →
          (∀ i, found = some i → (s.worker i).presence = .inside → s.punchDirection lane found key = .outward)
          ∧ (∀ i, found = some i → (s.worker i).presence ≠ .inside → s.punchDirection lane found key = .inward)
          ∧ (found = none → s.punchDirection lane found key = .inward))))
    ∧ (∀ (c : Crew) (d : Nat), 0 < c.length →
      ∃ k, k < c.length ∧ (c.length : Int) ∣ (d : Int) - c.anchor - k ∧ c.rotaDay d = c.rota.getD k none)
    ∧ (∀ (s : State) (i d : Nat),
      s.shiftOn i d =
        ⟨i, d, 86400 * d + 60 * (s.shift i).start,
          86400 * d + 60 * (s.shift i).stop + if (s.shift i).start < (s.shift i).stop then 0 else 86400⟩)
    ∧ (∀ (s : State) (crew t : Nat) (passes : ShiftDay → Prop),
      (∀ c, passes c ↔
        (((s.crew crew).rotaDay (t / 86400) = some c.shift ∧ c = s.shiftOn c.shift (t / 86400))
          ∨ (1 ≤ t / 86400 ∧ (s.crew crew).rotaDay (t / 86400 - 1) = some c.shift
            ∧ (s.shift c.shift).stop ≤ (s.shift c.shift).start ∧ c = s.shiftOn c.shift (t / 86400 - 1)))
        ∧ c.start ≤ t + 60 * (s.shift c.shift).entryOpen ∧ t < c.stop) →
      (s.resolve crew t = none ↔ ∀ c, ¬ passes c)
      ∧ ∀ c, s.resolve crew t = some c →
          passes c
          ∧ ∀ b, passes b →
              ((t : Int) - c.start).natAbs < ((t : Int) - b.start).natAbs
              ∨ (((t : Int) - c.start).natAbs = ((t : Int) - b.start).natAbs ∧ b.start ≤ c.start))

/-- A new PUNCH at an IDLE lane: accepted at a lane that is not UNLOCKED it releases the lane with the punch and its
timer; accepted at an UNLOCKED lane it commits at once with FREE_LANE; either writes the last punch; refused it is
counted and journaled, with the last punch written by the refusals after the duplicate check; IGNORED changes
nothing but the VERDICT sent. At a RELEASED lane, and at an OPEN one outside evacuation, it is answered BUSY and
nothing else happens. -/
def Obligations.PunchesAct : Prop :=
  (∀ (n : Nat) (bit : Bool) (code : Word) (key : HeadKey) (s : State), s.awaitsReply n = true →
    (s.lane n).lastBit ≠ some bit → (s.lane n).state = .idle →
    ∀ base : Lane, base =
      { s.lane n with
        replyWindow := none, pollTimer := some s.part.pollInterval, lastBit := some bit, missed := 0 } →
    (∀ p, s.judge n code.toNat key = .accept p →
      ∃ u : State, u = { s with lanes := u.lanes, workers := u.workers }
        ∧ (∀ k, k ≠ n → u.lane k = s.lane k)
        ∧ u.worker p.worker = { s.worker p.worker with lastPunch := some ⟨n, s.clock.tickCount⟩ }
        ∧ (∀ j, j ≠ p.worker → u.worker j = s.worker j)
        ∧ ((s.lane n).mode ≠ .unlocked →
            exec (.headPunch n bit code key) s = .next u
            ∧ u.lane n =
                { base with
                  state := .released, punch := some p, releaseTimer := some (10 * (s.laneRecord n).releaseTime)
                  line := some (.verdict .accept
                    ((if p.direction = .outward then 1 else 0) + if p.soft.isSome then 2 else 0)) })
        ∧ ((s.lane n).mode = .unlocked →
            exec (.headPunch n bit code key) s = .next (commitPunch n p true u)
            ∧ u.lane n =
                { base with
                  line := some (.verdict .accept
                    ((if p.direction = .outward then 1 else 0) + if p.soft.isSome then 2 else 0)) }))
    ∧ (∀ r, s.judge n code.toNat key = .refuse r →
      ∃ u : State, u = { s with lanes := u.lanes, workers := u.workers }
        ∧ exec (.headPunch n bit code key) s =
            .next (offerEntry
              (.punch .never n code.toNat (s.found code.toNat)
                (s.punchDirection n (s.found code.toNat) key) .rejected (some r)
                ⟨false, false, false, false, false, false, false⟩) u)
        ∧ (∀ k, k ≠ n → u.lane k = s.lane k)
        ∧ u.lane n =
            { base with line := some (.verdict r.verdict 0), refusals := min ((s.lane n).refusals + 1) 65535 }
        ∧ (r = .malformed ∨ r = .laneLocked ∨ r = .unknownBadge → u.workers = s.workers)
        ∧ (r = .suspended ∨ r = .notThisLane ∨ r = .journalFull ∨ r = .passback ∨ r = .outOfShift →
            ∀ i, s.lookup code.toNat = some i →
              u.worker i = { s.worker i with lastPunch := some ⟨n, s.clock.tickCount⟩ }
              ∧ ∀ j, j ≠ i → u.worker j = s.worker j))
    ∧ (s.judge n code.toNat key = .ignored →
      ∃ u : State, exec (.headPunch n bit code key) s = .next u ∧ u = { s with lanes := u.lanes }
        ∧ (∀ k, k ≠ n → u.lane k = s.lane k) ∧ u.lane n = { base with line := some (.verdict .ignored 0) }))
    ∧ (∀ (n : Nat) (bit : Bool) (code : Word) (key : HeadKey) (s : State), s.awaitsReply n = true →
      (s.lane n).lastBit ≠ some bit →
      (s.lane n).state = .released ∨ ((s.lane n).state = .opened ∧ s.evac.evacuating = false) →
      ∃ t : State, exec (.headPunch n bit code key) s = .next t ∧ t = { s with lanes := t.lanes }
        ∧ (∀ k, k ≠ n → t.lane k = s.lane k)
        ∧ t.lane n =
            { s.lane n with
              replyWindow := none, pollTimer := some s.part.pollInterval, lastBit := some bit, missed := 0
              line := some (.verdict .busy 0) })

/-- A muster punch, taken in IDLE and in OPEN while evacuating, for a code that is not malformed: an UNACCOUNTED worker
becomes ACCOUNTED and the unaccounted count falls by one; for any other found worker, and for a code not found, no
record and no count changes; the VERDICT is MUSTER_OK or MUSTER_UNKNOWN; one MUSTER entry is offered, with the lane, the
code, the index and the result ACCOUNTED, ALREADY, NOT_IN_ROLL or UNKNOWN, the journal, its change flags and the upward
queue being those of that offer; of the lane only the exchange, the last bit, the missed count and the VERDICT change. A
malformed code there, 0 or 4,294,967,295, is refused before the muster step: VERDICT MALFORMED, the lane's refusal count,
and a PUNCH entry without a worker; the lane stays in its state, and no worker record, mark or count of the roll changes. -/
def Obligations.MusterPunchActs : Prop :=
  (∀ (n : Nat) (bit : Bool) (code : Word) (key : HeadKey) (s : State), s.awaitsReply n = true →
    (s.lane n).lastBit ≠ some bit → (s.lane n).state = .idle ∨ (s.lane n).state = .opened →
    s.evac.evacuating = true → code = 0#32 ∨ code = 4294967295#32 →
    ∃ u : State, u = { s with lanes := u.lanes }
      ∧ exec (.headPunch n bit code key) s =
          .next (offerEntry
            (.punch .never n code.toNat none (s.punchDirection n none key) .rejected (some .malformed)
              ⟨false, false, false, false, false, false, false⟩) u)
      ∧ (∀ k, k ≠ n → u.lane k = s.lane k)
      ∧ u.lane n =
          { s.lane n with
            replyWindow := none, pollTimer := some s.part.pollInterval, lastBit := some bit, missed := 0
            line := some (.verdict .malformed 0), refusals := min ((s.lane n).refusals + 1) 65535 })
    ∧ (∀ (n : Nat) (bit : Bool) (code : Word) (key : HeadKey) (s : State), s.awaitsReply n = true →
    (s.lane n).lastBit ≠ some bit → (s.lane n).state = .idle ∨ (s.lane n).state = .opened →
    s.evac.evacuating = true → code ≠ 0#32 → code ≠ 4294967295#32 →
    ∃ t v : State, exec (.headPunch n bit code key) s = .next t
      ∧ v =
          offerEntry
            (match s.lookup code.toNat with
              | none => .muster n code.toNat none .unknown
              | some i =>
                .muster n code.toNat (some i)
                  (match (s.worker i).muster with
                    | .unaccounted => .accounted
                    | .accounted => .already
                    | .none => .notInRoll)) s
      ∧ t = { v with lanes := t.lanes, workers := t.workers, evac := t.evac }
      ∧ (∀ k, k ≠ n → t.lane k = s.lane k)
      ∧ t.lane n =
          { s.lane n with
            replyWindow := none, pollTimer := some s.part.pollInterval, lastBit := some bit, missed := 0
            line := (t.lane n).line }
      ∧ (s.lookup code.toNat = none →
          t.workers = s.workers ∧ t.evac = s.evac ∧ (t.lane n).line = some (.verdict .musterUnknown 0))
      ∧ (∀ i, s.lookup code.toNat = some i →
          (t.lane n).line = some (.verdict .musterOk 0) ∧ (∀ j, j ≠ i → t.worker j = s.worker j)
          ∧ ((s.worker i).muster = .unaccounted →
              t.worker i = { s.worker i with muster := .accounted }
              ∧ t.evac = { s.evac with unaccounted := s.evac.unaccounted - 1 })
          ∧ ((s.worker i).muster ≠ .unaccounted → t.worker i = s.worker i ∧ t.evac = s.evac)))

/-- A new DOOR OPEN: at a RELEASED lane it is the passage, which opens the lane and commits its punch; at an IDLE lane
it opens the lane, outside evacuation in modes NORMAL and LOCKED with FORCED, its change flag and a DOOR entry; at an OPEN
lane nothing changes but the exchange. A new DOOR CLOSED: an OPEN lane returns to IDLE, its held timer stops, FORCED and
HELD clear with their change flags; in IDLE and RELEASED nothing changes but the exchange. For each change flag that goes
from clear to set one ALERT with condition, lane and new state enters the queue or is dropped (that of FORCED before the
DOOR entry: the model's reading, log entry 13, DEDUCED; of two, in an order that is a free value: log entry 7, DESIGN
CHOICE). -/
def Obligations.DoorEventsAct : Prop :=
  (∀ (n : Nat) (bit : Bool) (s : State), s.awaitsReply n = true → (s.lane n).lastBit ≠ some bit →
    ∀ base : Lane, base =
      { s.lane n with
        replyWindow := none, pollTimer := some s.part.pollInterval, lastBit := some bit, missed := 0 } →
    ((s.lane n).state = .released →
      ∃ u : State, u = { s with lanes := u.lanes } ∧ (∀ k, k ≠ n → u.lane k = s.lane k)
        ∧ u.lane n =
            { base with
              state := .opened, releaseTimer := none, punch := none
              heldTimer := some (10 * (s.laneRecord n).heldTime) }
        ∧ ((s.lane n).punch = none → exec (.headDoorOpen n bit) s = .next u)
        ∧ ∀ p, (s.lane n).punch = some p → exec (.headDoorOpen n bit) s = .next (commitPunch n p false u))
    ∧ ((s.lane n).state = .idle → s.evac.evacuating = true ∨ (s.lane n).mode = .unlocked →
      ∃ t : State, exec (.headDoorOpen n bit) s = .next t ∧ t = { s with lanes := t.lanes }
        ∧ (∀ k, k ≠ n → t.lane k = s.lane k)
        ∧ t.lane n =
            { base with
              state := .opened, releaseTimer := none, punch := none
              heldTimer := some (10 * (s.laneRecord n).heldTime) })
    ∧ ((s.lane n).state = .idle → s.evac.evacuating = false → (s.lane n).mode ≠ .unlocked →
      ∃ u : State, exec (.headDoorOpen n bit) s = .next (offerEntry (.door n .forced) u)
        ∧ u = { s with lanes := u.lanes, link := { s.link with upQueue := u.link.upQueue } }
        ∧ (∀ k, k ≠ n → u.lane k = s.lane k)
        ∧ u.lane n =
            { base with
              state := .opened, releaseTimer := none, punch := none
              heldTimer := some (10 * (s.laneRecord n).heldTime)
              conditions := { (s.lane n).conditions with forced := true }
              changes :=
                { (s.lane n).changes with forced := (s.lane n).changes.forced || !(s.lane n).conditions.forced } }
        ∧ Alerts s u (s.alertOf (!(s.lane n).changes.forced && !(s.lane n).conditions.forced) 1 n 1))
    ∧ ((s.lane n).state = .opened →
      ∃ t : State, exec (.headDoorOpen n bit) s = .next t ∧ t = { s with lanes := t.lanes }
        ∧ (∀ k, k ≠ n → t.lane k = s.lane k) ∧ t.lane n = base))
    ∧ (∀ (n : Nat) (bit : Bool) (s : State), s.awaitsReply n = true → (s.lane n).lastBit ≠ some bit →
      ∀ base : Lane, base =
        { s.lane n with
          replyWindow := none, pollTimer := some s.part.pollInterval, lastBit := some bit, missed := 0 } →
      ∃ t : State, exec (.headDoorClosed n bit) s = .next t
        ∧ ((s.lane n).state ≠ .lost → t = { s with lanes := t.lanes, link := { s.link with upQueue := t.link.upQueue } }
            ∧ ∀ k, k ≠ n → t.lane k = s.lane k)
        ∧ ((s.lane n).state = .idle ∨ (s.lane n).state = .released → t.lane n = base ∧ t.link = s.link)
        ∧ ((s.lane n).state = .opened →
            t.lane n =
              { base with
                state := .idle, heldTimer := none
                conditions := { (s.lane n).conditions with forced := false, held := false }
                changes :=
                  { (s.lane n).changes with
                    forced := (s.lane n).changes.forced || (s.lane n).conditions.forced
                    held := (s.lane n).changes.held || (s.lane n).conditions.held } }
            ∧ Alerts s t
                (s.alertOf (!(s.lane n).changes.forced && (s.lane n).conditions.forced) 1 n 0
                  ++ s.alertOf (!(s.lane n).changes.held && (s.lane n).conditions.held) 2 n 0)))

/-- A new TAMPER ON or OFF outside LOST sets or clears the condition with its change flag, and nothing else changes but
the exchange and an alert. When the TAMPER change flag goes from clear to set, by ON or by OFF, one ALERT frame with
condition, lane and new state, SET or CLEAR, enters the queue if mask and enable allow it and the queue holds fewer than 6
frames; otherwise none does. -/
def Obligations.TamperAndItsAlert : Prop :=
  (∀ (n : Nat) (bit on : Bool) (s : State), s.awaitsReply n = true → (s.lane n).lastBit ≠ some bit →
    (s.lane n).state ≠ .lost →
    ∃ t : State, exec (if on then .headTamperOn n bit else .headTamperOff n bit) s = .next t
      ∧ t = { s with lanes := t.lanes, link := { s.link with upQueue := t.link.upQueue } }
      ∧ (∀ k, k ≠ n → t.lane k = s.lane k)
      ∧ t.lane n =
          { s.lane n with
            replyWindow := none, pollTimer := some s.part.pollInterval, lastBit := some bit, missed := 0
            conditions := { (s.lane n).conditions with tamper := on }
            changes :=
              { (s.lane n).changes with tamper := (s.lane n).changes.tamper || ((s.lane n).conditions.tamper != on) } }
      ∧ Alerts s t
          (s.alertOf (!(s.lane n).changes.tamper && ((s.lane n).conditions.tamper != on)) 3 n (if on then 1 else 0))
      ∧ ((s.lane n).conditions.tamper = on → t.link = s.link))
    ∧ (∀ (n : Nat) (bit : Bool) (s : State), s.awaitsReply n = true → (s.lane n).lastBit ≠ some bit →
      (s.lane n).state ≠ .lost → (s.lane n).conditions.tamper = false →
      ∃ t : State, exec (.headTamperOn n bit) s = .next t
        ∧ ((s.lane n).changes.tamper = false → s.link.alertMask.getLsbD 3 = true → s.part.alertEnable = true →
            s.link.upQueue.length < 6 →
            t.link.upQueue = s.link.upQueue ++ [⟨240#8, 0#8, [3#8, BitVec.ofNat 8 n, 1#8]⟩])
        ∧ ((s.lane n).changes.tamper = true ∨ s.link.alertMask.getLsbD 3 = false ∨ s.part.alertEnable = false
            ∨ 6 ≤ s.link.upQueue.length → t.link.upQueue = s.link.upQueue))

/-- The release timer's expiry returns the lane to IDLE and gives its punch up as UNUSED with a PUNCH entry; no worker
record changes. The held timer's expiry, outside evacuation in modes NORMAL and LOCKED, sets HELD with its change flag,
sends one ALERT of HELD when that flag was clear, and then offers a DOOR entry (the alert before the entry: the model's
reading, log entry 13, DEDUCED), and otherwise changes the timer alone. The release output is asserted exactly when the
lane is enabled and RELEASED, UNLOCKED, evacuating, or LOST with fail policy OPEN, while the blocks run. -/
def Obligations.LaneTimersExpire : Prop :=
  (∀ (n : Nat) (s : State), s.running = true → n < 16 → (s.lane n).state = .released →
    (s.lane n).releaseTimer = some 0 →
    ∃ u : State, u = { s with lanes := u.lanes } ∧ (∀ k, k ≠ n → u.lane k = s.lane k)
      ∧ u.lane n = { s.lane n with state := .idle, releaseTimer := none, punch := none }
      ∧ ((s.lane n).punch = none → exec (.releaseTimerExpiry n) s = .next u)
      ∧ ∀ p, (s.lane n).punch = some p →
          exec (.releaseTimerExpiry n) s =
            .next (offerEntry
              (.punch (match p.verdictTime with | some t => .time t | none => .unset) n p.code (some p.worker)
                p.direction .unused none
                ⟨false, decide (p.soft = some Soft.softPassback), decide (p.soft = some Soft.passbackOut), false, false, false,
                  false⟩) u))
    ∧ (∀ (n : Nat) (s : State), s.running = true → n < 16 → (s.lane n).state = .opened →
      (s.lane n).heldTimer = some 0 →
      (s.evac.evacuating = true ∨ (s.lane n).mode = .unlocked →
        ∃ t : State, exec (.heldTimerExpiry n) s = .next t ∧ t = { s with lanes := t.lanes }
          ∧ (∀ k, k ≠ n → t.lane k = s.lane k) ∧ t.lane n = { s.lane n with heldTimer := none })
      ∧ (s.evac.evacuating = false → (s.lane n).mode ≠ .unlocked →
        ∃ u : State, exec (.heldTimerExpiry n) s = .next (offerEntry (.door n .held) u)
          ∧ u = { s with lanes := u.lanes, link := { s.link with upQueue := u.link.upQueue } }
          ∧ (∀ k, k ≠ n → u.lane k = s.lane k)
          ∧ u.lane n =
              { s.lane n with
                heldTimer := none, conditions := { (s.lane n).conditions with held := true }
                changes := { (s.lane n).changes with held := (s.lane n).changes.held || !(s.lane n).conditions.held } }
          ∧ Alerts s u (s.alertOf (!(s.lane n).changes.held && !(s.lane n).conditions.held) 2 n 1)))
    ∧ (∀ (s : State) (n : Nat), s.running = true →
      (s.releaseOutput n = true ↔
        (s.laneRecord n).enabled = true
          ∧ ((s.lane n).state = .released ∨ (s.lane n).mode = .unlocked ∨ s.evac.evacuating = true
            ∨ ((s.lane n).state = .lost ∧ (s.laneRecord n).fail = .opens))))

/-! ## Commits and pairings -/

/-- The commit of an IN: presence INSIDE and the inside count; a new attendance from the verdict time with what the
calendar captures, an open one kept as REENTRY, or none as NO_ATTENDANCE; then the PUNCH entry with its flags. The
commit of an OUT: presence OUTSIDE and the inside count, the PUNCH entry, then the pairing of an open attendance at
the verdict time; with none open the punch is ORPHAN_OUT and nothing is paired. No other record changes. -/
def Obligations.PunchesCommit : Prop :=
  (∀ (lane : Nat) (p : ReleasedPunch) (free : Bool) (s : State), p.direction = .inward →
    ∃ (u : State) (f : PunchFlags),
      commitPunch lane p free s =
        offerEntry
          (.punch (match p.verdictTime with | some t => .time t | none => .unset) lane p.code (some p.worker) .inward
            .admitted none f) u
      ∧ u = { s with workers := u.workers, insideCount := u.insideCount }
      ∧ (∀ j, j ≠ p.worker → u.worker j = s.worker j)
      ∧ u.insideCount = (if (s.worker p.worker).presence = .inside then s.insideCount else s.insideCount + 1)
      ∧ f.freeLane = free ∧ f.softPassback = decide (p.soft = some .softPassback)
      ∧ f.passbackOut = decide (p.soft = some .passbackOut) ∧ f.orphanOut = false
      ∧ ((s.worker p.worker).attendance.isSome = true →
          u.worker p.worker = { s.worker p.worker with presence := .inside }
          ∧ f.reentry = true ∧ f.unscheduled = false ∧ f.noAttendance = false)
      ∧ ((s.worker p.worker).attendance = none → p.verdictTime = none →
          u.worker p.worker = { s.worker p.worker with presence := .inside }
          ∧ f.reentry = false ∧ f.unscheduled = false ∧ f.noAttendance = true)
      ∧ (∀ t, (s.worker p.worker).attendance = none → p.verdictTime = some t →
          f.reentry = false ∧ f.unscheduled = p.held.isNone ∧ f.noAttendance = false
          ∧ (∀ c, p.held = some c →
              u.worker p.worker =
                { s.worker p.worker with
                  presence := .inside
                  attendance := some
                    { inTime := t, scheduled := some ⟨c.shift, c.start, c.stop⟩, dayKey := c.day
                      deadline := min (c.stop + 60 * (s.shift c.shift).outWindow) 4294967295
                      carried := false, carriedGross := 0, breakTaken := false } })
          ∧ (p.held = none →
              u.worker p.worker =
                { s.worker p.worker with
                  presence := .inside
                  attendance := some
                    { inTime := t, scheduled := none, dayKey := t / 86400, deadline := min (t + 57600) 4294967295
                      carried := false, carriedGross := 0, breakTaken := false } })))
    ∧ (∀ (lane : Nat) (p : ReleasedPunch) (free : Bool) (s : State), p.direction = .outward →
      ∃ (u : State) (f : PunchFlags),
        u = { s with workers := u.workers, insideCount := u.insideCount }
        ∧ u.worker p.worker = { s.worker p.worker with presence := .outside }
        ∧ (∀ j, j ≠ p.worker → u.worker j = s.worker j)
        ∧ u.insideCount = (if (s.worker p.worker).presence = .inside then s.insideCount - 1 else s.insideCount)
        ∧ f = ⟨free, decide (p.soft = some .softPassback), decide (p.soft = some .passbackOut), false, false, false,
            (s.worker p.worker).attendance.isNone⟩
        ∧ ∀ e, e = offerEntry
            (.punch (match p.verdictTime with | some t => .time t | none => .unset) lane p.code (some p.worker) .outward
              .admitted none f) u →
          ((s.worker p.worker).attendance = none → commitPunch lane p free s = e)
          ∧ ((s.worker p.worker).attendance.isSome = true →
              commitPunch lane p free s =
                callPairing p.worker .out (match p.verdictTime with | some t => t | none => s.clock.gateTime)
                  (s.worker p.worker).presence e))

/-- For every pairing: the rounded times are those of the two rounding rules; the gross is their difference, not below 0,
cut at 24 hours with LONG; NEGATIVE tells that the raw out time is before the in time, and the gross is then 0 or that
difference, a free value, as R112 gives it both ways (log entry 38, DESIGN CHOICE); the break is deducted once; worked is
whole minutes; the tiers are those of the daily and then the weekly split after the minutes of tallies with the same key;
night minutes are those of the overlap of the paid interval with the night windows of its days and the day before,
capped by the worked ones, and 0 without a window, where the window of a day that is no day number, below 0 or above
49,710, counts or not by a free value (log entry 9, DESIGN CHOICE); and the pay formula. -/
def Obligations.PairingStages : Prop :=
  ∀ (s : State) (w : Worker) (a : Attendance) (kind : PairKind) (rawOut : Nat) (l : PayLine),
    s.computePay w a kind rawOut = l →
    ∀ sh : Shift, sh = s.shift (match a.scheduled with | some c => c.shift | none => 0) →
    l.roundedIn = roundIn sh a ∧ l.roundedOut = roundOut kind sh a rawOut
    ∧ (l.negative = true ↔ rawOut < a.inTime)
    ∧ (a.inTime ≤ rawOut → l.gross = min (l.roundedOut - l.roundedIn).toNat 86400)
    ∧ (rawOut < a.inTime → l.gross = 0 ∨ l.gross = min (l.roundedOut - l.roundedIn).toNat 86400)
    ∧ (a.inTime ≤ rawOut → (l.long = true ↔ 86400 < (l.roundedOut - l.roundedIn).toNat))
    ∧ (l.long = true → l.gross = 86400)
    ∧ (l.breakTaken = true ↔
        a.breakTaken = true ∨ (0 < sh.break_ ∧ 60 * sh.threshold ≤ a.carriedGross + l.gross))
    ∧ (a.breakTaken = false → 0 < sh.break_ → 60 * sh.threshold ≤ a.carriedGross + l.gross →
        l.worked = (l.gross - 60 * sh.break_) / 60)
    ∧ (a.breakTaken = true ∨ sh.break_ = 0 ∨ a.carriedGross + l.gross < 60 * sh.threshold → l.worked = l.gross / 60)
    ∧ (∀ d0 w0,
        d0 = (match w.dayTally with | some y => if y.key = a.dayKey then y.minutes else 0 | none => 0) →
        w0 = (match w.weekTally with | some y => if y.key = s.weekIndex a.dayKey then y.minutes else 0 | none => 0) →
        (l.regular, l.ot1, l.ot2) = splitWeek (s.crew w.crew) w0 (splitDay (s.crew w.crew) d0 l.worked))
    ∧ l.regular + l.ot1 + l.ot2 = l.worked ∧ l.worked ≤ 1440 ∧ l.night ≤ l.worked
    ∧ (s.part.nightStart = s.part.nightEnd → l.night = 0)
    ∧ (s.part.nightStart ≠ s.part.nightEnd →
      ∀ counts : Int → Bool,
        (∀ d, counts d =
          if d < 0 then Config.nightBeforeDayZero else if 49710 < d then Config.nightPastLastDay else true) →
        l.night =
          min
            (((List.range ((l.roundedIn + l.gross) / 86400 - l.roundedIn / 86400 + 2).toNat).map fun k =>
              if counts (l.roundedIn / 86400 - 1 + k) then
                (min (l.roundedIn + l.gross)
                    (86400 * (l.roundedIn / 86400 - 1 + k) + 60 * s.part.nightEnd
                      + if s.part.nightStart < s.part.nightEnd then 0 else 86400)
                  - max l.roundedIn (86400 * (l.roundedIn / 86400 - 1 + k) + 60 * s.part.nightStart)).toNat
              else 0).sum / 60)
            l.worked)
    ∧ l.regular ≤ (s.crew w.crew).dr ∧ l.regular ≤ (s.crew w.crew).wr
    ∧ l.pay =
        l.regular * (s.rate w.rateClass).base
          + ((l.ot1 * (s.rate w.rateClass).m1 + l.ot2 * (s.rate w.rateClass).m2) * (s.rate w.rateClass).base + 50) / 100
          + l.night * (s.rate w.rateClass).premium

/-- A carried in time stands, an in time within the graces of a scheduled attendance becomes the instance start, any
other goes up to the grid; a split's T_close stands, an auto-close takes the instance end or the rounded in time, an
out within the exit grace the instance end, any other goes down to the grid. The tiers: regular minutes fill the
daily and weekly rooms, OT1 its daily room, and the three sum to the worked minutes. -/
def Obligations.RoundingAndTiers : Prop :=
  ((∀ (sh : Shift) (a : Attendance), a.carried = true → roundIn sh a = a.inTime)
    ∧ (∀ (sh : Shift) (a : Attendance) (c : Scheduled), a.carried = false → a.scheduled = some c → 0 < sh.quantum →
        ((c.start : Int) - 60 * sh.earlyGrace ≤ a.inTime → (a.inTime : Int) ≤ c.start + 60 * sh.lateGrace →
          roundIn sh a = c.start)
        ∧ (¬ ((c.start : Int) - 60 * sh.earlyGrace ≤ a.inTime ∧ (a.inTime : Int) ≤ c.start + 60 * sh.lateGrace) →
          (a.inTime : Int) ≤ roundIn sh a ∧ roundIn sh a < a.inTime + 60 * sh.quantum
          ∧ (60 * sh.quantum : Int) ∣ roundIn sh a - c.start))
    ∧ (∀ (sh : Shift) (a : Attendance), a.carried = false → a.scheduled = none → 0 < sh.quantum →
        (a.inTime : Int) ≤ roundIn sh a ∧ roundIn sh a < a.inTime + 60 * sh.quantum
        ∧ (60 * sh.quantum : Int) ∣ roundIn sh a - 86400 * a.dayKey)
    ∧ (∀ (sh : Shift) (a : Attendance) (raw : Nat), roundOut .split sh a raw = raw)
    ∧ (∀ (sh : Shift) (a : Attendance) (c : Scheduled) (raw : Nat), a.scheduled = some c →
        roundOut .autoClose sh a raw = c.stop)
    ∧ (∀ (sh : Shift) (a : Attendance) (raw : Nat), a.scheduled = none →
        roundOut .autoClose sh a raw = roundIn sh a)
    ∧ (∀ (sh : Shift) (a : Attendance) (c : Scheduled) (raw : Nat), a.scheduled = some c → 0 < sh.quantum →
        ((c.stop : Int) - 60 * sh.exitGrace ≤ raw → (raw : Int) ≤ c.stop + 60 * sh.exitGrace →
          roundOut .out sh a raw = c.stop)
        ∧ (¬ ((c.stop : Int) - 60 * sh.exitGrace ≤ raw ∧ (raw : Int) ≤ c.stop + 60 * sh.exitGrace) →
          roundOut .out sh a raw ≤ raw ∧ (raw : Int) < roundOut .out sh a raw + 60 * sh.quantum
          ∧ (60 * sh.quantum : Int) ∣ roundOut .out sh a raw - c.start))
    ∧ ∀ (sh : Shift) (a : Attendance) (raw : Nat), a.scheduled = none → 0 < sh.quantum →
        roundOut .out sh a raw ≤ raw ∧ (raw : Int) < roundOut .out sh a raw + 60 * sh.quantum
        ∧ (60 * sh.quantum : Int) ∣ roundOut .out sh a raw - 86400 * a.dayKey)
    ∧ (∀ (c : Crew) (d0 w0 w r o1 o2 : Nat), splitWeek c w0 (splitDay c d0 w) = (r, o1, o2) →
      r = min (min w (c.dr - d0)) (c.wr - w0)
      ∧ o2 = (w - min w (c.dr - d0)) - min (w - min w (c.dr - d0)) (c.dl - max d0 c.dr)
      ∧ r + o1 + o2 = w)

/-- A pairing writes the tallies, re-keyed where their key differs, the live bank with each count at most at its
maximum, the attendance removed or, for a split, carried on from T_close, and offers one PAYLINE entry with its eight
flags, SATURATED exactly when a count could not take its addition; no other record changes. The week index, the key of
the week tally, rises by one on each day whose weekday is the week start. An expiry pairs with the deadline as raw out
time, after the on-demand close where one is due, and then writes presence UNKNOWN with the inside count; no other record
changes. -/
def Obligations.PairingsAndExpiries : Prop :=
  (∀ (i : Nat) (kind : PairKind) (rawOut : Nat) (presence : Presence) (s : State) (a : Attendance) (l : PayLine),
    (s.worker i).attendance = some a → s.computePay (s.worker i) a kind rawOut = l →
    ∃ (u : State) (f : PayFlags),
      makePairing i kind rawOut presence s =
        offerEntry (.payline i l.roundedIn l.roundedOut l.regular l.ot1 l.ot2 l.night l.pay f) u
      ∧ u = { s with workers := u.workers } ∧ (∀ j, j ≠ i → u.worker j = s.worker j)
      ∧ u.worker i =
          { s.worker i with
            attendance :=
              if kind = .split then
                some { a with
                  inTime := rawOut, carried := true, carriedGross := min (a.carriedGross + l.gross) 86400
                  breakTaken := l.breakTaken }
              else none
            dayTally := (u.worker i).dayTally, weekTally := (u.worker i).weekTally, live := (u.worker i).live }
      ∧ (u.worker i).live.regular = min ((s.worker i).live.regular + l.regular) 65535
      ∧ (u.worker i).live.ot1 = min ((s.worker i).live.ot1 + l.ot1) 65535
      ∧ (u.worker i).live.ot2 = min ((s.worker i).live.ot2 + l.ot2) 65535
      ∧ (u.worker i).live.night = min ((s.worker i).live.night + l.night) 65535
      ∧ (u.worker i).live.pay = min ((s.worker i).live.pay + l.pay) 4294967295
      ∧ (u.worker i).live.pairings = min ((s.worker i).live.pairings + 1) 65535
      ∧ (∀ y, (s.worker i).dayTally = some y → y.key = a.dayKey →
          (u.worker i).dayTally = some ⟨a.dayKey, min (y.minutes + l.worked) 65535⟩)
      ∧ ((∀ y, (s.worker i).dayTally = some y → y.key ≠ a.dayKey) →
          (u.worker i).dayTally = some ⟨a.dayKey, l.worked⟩)
      ∧ (∀ y, (s.worker i).weekTally = some y → y.key = s.weekIndex a.dayKey →
          (u.worker i).weekTally = some ⟨s.weekIndex a.dayKey, min (y.minutes + l.regular) 65535⟩)
      ∧ ((∀ y, (s.worker i).weekTally = some y → y.key ≠ s.weekIndex a.dayKey) →
          (u.worker i).weekTally = some ⟨s.weekIndex a.dayKey, l.regular⟩)
      ∧ f.carried = a.carried ∧ f.split = decide (kind = .split) ∧ f.missedOut = decide (kind = .autoClose)
      ∧ f.long = l.long ∧ f.negative = l.negative ∧ f.unscheduled = a.scheduled.isNone
      ∧ f.reentry = decide (presence = .unknown)
      ∧ (f.saturated = true ↔
          65535 < (s.worker i).live.regular + l.regular ∨ 65535 < (s.worker i).live.ot1 + l.ot1
            ∨ 65535 < (s.worker i).live.ot2 + l.ot2 ∨ 65535 < (s.worker i).live.night + l.night
            ∨ 4294967295 < (s.worker i).live.pay + l.pay ∨ 65535 < (s.worker i).live.pairings + 1))
    ∧ (∀ (s : State) (d : Nat), s.clock.weekdayOffset ≤ 6 → s.part.weekStart ≤ 6 →
      s.weekIndex d = (d + s.clock.weekdayOffset + 7 - s.part.weekStart) / 7
      ∧ s.weekIndex (d + 1) =
          s.weekIndex d + if (d + 1 + s.clock.weekdayOffset) % 7 = s.part.weekStart then 1 else 0)
    ∧ (∀ (i : Nat) (s : State),
      ((s.worker i).attendance = none → expire i s = s)
      ∧ ∀ a, (s.worker i).attendance = some a →
          expire i s = setPresence i .unknown (callPairing i .autoClose a.deadline (s.worker i).presence s)
          ∧ ((expire i s).worker i).attendance = none ∧ ((expire i s).worker i).presence = .unknown
          ∧ (∀ j, j ≠ i → (expire i s).worker j = s.worker j)
          ∧ (expire i s).insideCount =
              (if (s.worker i).presence = .inside then s.insideCount - 1 else s.insideCount))

/-! ## The period close -/

/-- PERIOD CLOSE: an empty set is refused with BAD_VALUE, a walking or suspended close answers BUSY; otherwise the set
is replaced or widened and the gather timer starts from the full window. At gather expiry with the clock SET the
close begins with the next generation, this T_close and zero counts, walking or, while evacuating, suspended, and
its START entry is offered; while UNSET it ends with CLOCK_UNSET, CLOSE_DONE sets, with one ALERT of that result, without a
lane, when it was clear, and no entry is offered. -/
def Obligations.CloseGathersAndBegins : Prop :=
  (∀ (tag : Byte) (crews : Half) (s : State), Ready (.periodClose tag crews) s →
    (crews = 0#16 → exec (.periodClose tag crews) s = .next (s.taken.reply 72#8 tag .badValue []))
    ∧ (crews ≠ 0#16 →
      (s.close.phase = .idle →
        exec (.periodClose tag crews) s =
          .next
            (({ s.taken with close :=
                { s.close with
                  phase := .gathering, crews := crews, gatherTimer := some (10 * s.part.gatherWindow) } }).reply
              72#8 tag .ok []))
      ∧ (s.close.phase = .gathering →
        exec (.periodClose tag crews) s =
          .next
            (({ s.taken with close :=
                { s.close with
                  crews := s.close.crews ||| crews, gatherTimer := some (10 * s.part.gatherWindow) } }).reply
              72#8 tag .ok []))
      ∧ (s.close.phase = .walking ∨ s.close.phase = .suspended →
        exec (.periodClose tag crews) s = .next (s.taken.reply 72#8 tag .busy []))))
    ∧ (∀ s : State, s.running = true → s.close.phase = .gathering → s.close.gatherTimer = some 0 →
      (s.clock.valid = true →
        exec .gatherTimerExpiry s =
          .next (offerEntry (.closeStart (s.close.gen + 1) s.close.crews s.clock.gateTime)
            { s with close :=
              { s.close with
                gen := s.close.gen + 1, tClose := s.clock.gateTime, walkIndex := 0, closed := 0, skipped := 0, split := 0
                phase := if s.evac.evacuating then .suspended else .walking, gatherTimer := none } }))
      ∧ (s.clock.valid = false →
        ∃ t : State, exec .gatherTimerExpiry s = .next t
          ∧ t = { s with
              close := { s.close with phase := .idle, lastResult := .clockUnset, gatherTimer := none }
              changes := { s.changes with closeDone := true }
              link := { s.link with upQueue := t.link.upQueue } }
          ∧ Alerts s t (s.alertOf (!s.changes.closeDone) 7 255 2)))

/-- CLOSE CANCEL: in GATHERING the timer stops, the phase becomes IDLE and the reply is OK, everything else of the close
state record as it was; in every other phase the request is refused with NOT_PERMITTED and the record is left as it
is. Nothing else changes but the reply: no journal entry. -/
def Obligations.CloseCancelActs : Prop :=
  ∀ (tag : Byte) (s : State), Ready (.closeCancel tag) s →
    (s.close.phase = .gathering →
      exec (.closeCancel tag) s =
        .next
          (({ s.taken with close := { s.close with phase := .idle, gatherTimer := none } }).reply 73#8 tag .ok []))
    ∧ (s.close.phase ≠ .gathering →
      exec (.closeCancel tag) s = .next (s.taken.reply 73#8 tag .notPermitted []))

/-- A walk step reaches the record at the walk index, which rises by one; after index 4095 the phase becomes IDLE with
COMPLETE, a DONE entry with the three counts is offered, and CLOSE_DONE sets, with one ALERT of COMPLETE, without a lane,
when it was clear (the alert after the entry: the model's reading, log entry 13, DEDUCED). A close passes over a FREE record
and one whose mark is the generation, marks one outside its crews, skips one with PAYHOLD, and closes any other: an
attendance from before T_close is split there, the live bank moves to the closed bank, and generation, T_close and mark are
set; beside the closed record this says no more than that the other records and the inside count stand, what the close's
three counts become, and, of the journal, that it stands or takes one number. An OUT or AUTO-CLOSE pairing reaches the record first while a close walks, and in no other phase; that the split of this on-demand
close is handed the caller's presence from before the calling event is the model's reading (log entry 15, DEDUCED, where
R133 names the present presence). -/
def Obligations.CloseReachesRecords : Prop :=
  (∀ s : State, s.running = true → s.close.phase = .walking →
    (∀ i, i < 4095 → s.close.walkIndex = i →
      ∃ u : State, u = reachRecord i (s.worker i).presence s
        ∧ exec .walkStep s = .next { u with close := { u.close with walkIndex := i + 1 } })
    ∧ (s.close.walkIndex = 4095 →
      ∃ u v t : State, u = reachRecord 4095 (s.worker 4095).presence s ∧ exec .walkStep s = .next t
        ∧ v =
            offerEntry
              (.closeDone u.close.gen u.close.crews u.close.tClose u.close.closed u.close.skipped u.close.split)
              { u with close := { u.close with walkIndex := 4096, phase := .idle, lastResult := .complete } }
        ∧ t = { v with
            changes := { v.changes with closeDone := true }, link := { v.link with upQueue := t.link.upQueue } }
        ∧ Alerts v t (v.alertOf (!s.changes.closeDone) 7 255 1)
        ∧ t.close = { u.close with walkIndex := 4096, phase := .idle, lastResult := .complete }
        ∧ t.changes.closeDone = true ∧ t.workers = u.workers
        ∧ t.journal.next = u.journal.next + 1))
    ∧ (∀ (i : Nat) (presence : Presence) (s : State) (w : Worker), w = s.worker i →
      (w.status = .free ∨ w.closeMark = s.close.gen → reachRecord i presence s = s)
      ∧ (w.status ≠ .free → w.closeMark ≠ s.close.gen →
        (s.close.crews.getLsbD w.crew = false →
          reachRecord i presence s = s.setWorker i { w with closeMark := s.close.gen })
        ∧ (s.close.crews.getLsbD w.crew = true → w.payhold = true →
          ∃ u : State, reachRecord i presence s = u
            ∧ u = { s with workers := u.workers, close := { s.close with skipped := s.close.skipped + 1 } }
            ∧ u.worker i = { w with closeMark := s.close.gen } ∧ ∀ j, j ≠ i → u.worker j = s.worker j)
        ∧ (s.close.crews.getLsbD w.crew = true → w.payhold = false →
          ∃ u : State, reachRecord i presence s = u ∧ (∀ j, j ≠ i → u.worker j = s.worker j)
            ∧ (u.worker i).closeMark = s.close.gen ∧ (u.worker i).closedGen = s.close.gen
            ∧ (u.worker i).closedAt = s.close.tClose ∧ (u.worker i).live = Bank.zero
            ∧ (u.worker i).presence = w.presence ∧ u.insideCount = s.insideCount
            ∧ u.close.closed = s.close.closed + 1 ∧ u.close.skipped = s.close.skipped
            ∧ ((w.attendance = none ∨ ∃ a, w.attendance = some a ∧ s.close.tClose ≤ a.inTime) →
                (u.worker i).closed = w.live ∧ (u.worker i).attendance = w.attendance
                ∧ u.close.split = s.close.split ∧ u.journal = s.journal)
            ∧ (∀ a, w.attendance = some a → a.inTime < s.close.tClose →
                (u.worker i).closed = w.live.add (s.computePay w a .split s.close.tClose)
                ∧ (∃ b, (u.worker i).attendance = some b ∧ b.inTime = s.close.tClose ∧ b.carried = true
                  ∧ b.scheduled = a.scheduled ∧ b.dayKey = a.dayKey ∧ b.deadline = a.deadline)
                ∧ u.close.split = s.close.split + 1 ∧ u.journal.next = s.journal.next + 1))))
    ∧ (∀ (i : Nat) (kind : PairKind) (raw : Nat) (presence : Presence) (s : State),
      (s.close.phase = .walking →
        callPairing i kind raw presence s = makePairing i kind raw presence (reachRecord i presence s))
      ∧ (s.close.phase ≠ .walking → callPairing i kind raw presence s = makePairing i kind raw presence s))

/-! ## Bells -/

/-- While evacuating every request is discarded. Otherwise a request becomes active at an idle output or against a lower
priority, beginning segment 0 of its pattern with its repeat count; it waits behind an active cadence of its
priority or above, replaces a waiting request of lower priority, or is discarded. A request whose pattern is empty, its
first segment of duration 0, completes at once: at an idle output it leaves the output idle, and against a lower priority
it discards the active cadence and the waiting request, if any, plays, or ends too where its own pattern is empty. -/
def Obligations.BellArbitration : Prop :=
  ∀ (s : State) (a : Arbiter) (r : BellRequest),
    (s.evac.evacuating = true → s.arbitrate a r = (a, .discarded))
    ∧ (s.evac.evacuating = false →
      (∀ g rest, (s.pattern r.pattern).segments = g :: rest → g.duration ≠ 0 →
        (a.active = none →
          s.arbitrate a r =
            (⟨some ⟨r.pattern, s.pattern r.pattern, r.priority, 0, .finite (s.pattern r.pattern).repeats,
                some g.duration⟩, a.waiting, false⟩, .active))
        ∧ ∀ c, a.active = some c → c.priority < r.priority →
          s.arbitrate a r =
            (⟨some ⟨r.pattern, s.pattern r.pattern, r.priority, 0, .finite (s.pattern r.pattern).repeats,
                some g.duration⟩, a.waiting, false⟩, .preempted))
      ∧ ((∀ g rest, (s.pattern r.pattern).segments = g :: rest → g.duration = 0) →
        (a.active = none → a.waiting = none → s.arbitrate a r = (⟨none, none, false⟩, .active))
        ∧ ∀ c, a.active = some c → c.priority < r.priority →
          (a.waiting = none → s.arbitrate a r = (⟨none, none, false⟩, .preempted))
          ∧ ∀ q, a.waiting = some q →
            (∀ g rest, (s.pattern q.pattern).segments = g :: rest → g.duration ≠ 0 →
              s.arbitrate a r =
                (⟨some ⟨q.pattern, s.pattern q.pattern, q.priority, 0, .finite (s.pattern q.pattern).repeats,
                    some g.duration⟩, none, false⟩, .preempted))
            ∧ ((∀ g rest, (s.pattern q.pattern).segments = g :: rest → g.duration = 0) →
              s.arbitrate a r = (⟨none, none, false⟩, .preempted)))
      ∧ (∀ c, a.active = some c → r.priority ≤ c.priority →
        (a.waiting = none → s.arbitrate a r = ({ a with waiting := some r }, .pending))
        ∧ ∀ q, a.waiting = some q →
          (q.priority < r.priority → s.arbitrate a r = ({ a with waiting := some r }, .replaced))
          ∧ (r.priority ≤ q.priority → s.arbitrate a r = (a, .discarded))))

/-- BELL RING, addressed or broadcast: a pattern above 15 or a priority above 3 is refused with BAD_VALUE and no arbiter
is reached; otherwise each output in the mask takes the arbiter that R163 gives and the others keep theirs; the
reply is OK and lists the four results, NONE for an output not in the mask; nothing else changes, and a broadcast
gets no reply. -/
def Obligations.BellRingReaches : Prop :=
  ∀ (b : Bool) (tag outputs pattern priority : Byte) (s : State), Ready (.bellRing b tag outputs pattern priority) s →
    (15 < pattern.toNat ∨ 3 < priority.toNat →
      exec (.bellRing b tag outputs pattern priority) s = .next (s.taken.replyUnless b 96#8 tag .badValue []))
    ∧ (pattern.toNat ≤ 15 → priority.toNat ≤ 3 →
      ∃ u : State, exec (.bellRing b tag outputs pattern priority) s =
          .next (u.replyUnless b 96#8 tag .ok
            ([0, 1, 2, 3].flatMap fun o =>
              be8 (if outputs.getLsbD o then (s.arbitrate (s.arbiter o) ⟨pattern.toNat, priority.toNat⟩).2.code
                else 5)))
        ∧ u = { s.taken with arbiters := u.arbiters }
        ∧ (∀ o, o < 4 → outputs.getLsbD o = true →
            u.arbiter o = (s.arbitrate (s.arbiter o) ⟨pattern.toNat, priority.toNat⟩).1)
        ∧ ∀ o, 4 ≤ o ∨ outputs.getLsbD o = false → u.arbiter o = s.arbiter o)

/-- BELL SILENCE leaves each output of the mask idle, or silenced while evacuating, and the others as they are. BELL
STATUS returns the four arbiters, item by item, 0 where not present and 255 for ENDLESS; an output is asserted at the level
of the segment that plays, throughout a tone without segments, and not while idle. The end of a segment begins the next segment of the pass, the next pass, or
completes the cadence, at which a pending request becomes active, or ends too where its pattern is empty; the evacuation
tone starts again for ever. No
other output and nothing else changes. -/
def Obligations.BellsPlayOn : Prop :=
  ((∀ (tag outputs : Byte) (s : State), Ready (.bellSilence tag outputs) s →
      ∃ u : State, exec (.bellSilence tag outputs) s = .next (u.reply 97#8 tag .ok [])
        ∧ u = { s.taken with arbiters := u.arbiters }
        ∧ (∀ o, o < 4 → outputs.getLsbD o = true → u.arbiter o = ⟨none, none, s.evac.evacuating⟩)
        ∧ ∀ o, 4 ≤ o ∨ outputs.getLsbD o = false → u.arbiter o = s.arbiter o)
    ∧ ∀ (tag : Byte) (s : State), Ready (.bellStatus tag) s →
        exec (.bellStatus tag) s =
            .next (s.taken.reply 98#8 tag .ok
              ([0, 1, 2, 3].flatMap fun o =>
                (match (s.arbiter o).active with
                  | some c =>
                    [1#8] ++ be8 c.pattern ++ be8 c.priority ++ be8 c.segment
                      ++ be8 (match c.passes with | .finite n => n | .endless => 255)
                      ++ be8 (if s.bellAsserted o then 1 else 0)
                  | none => [0#8, 0#8, 0#8, 0#8, 0#8, 0#8])
                ++ (match (s.arbiter o).waiting with
                  | some q => [1#8] ++ be8 q.pattern ++ be8 q.priority
                  | none => [0#8, 0#8, 0#8])
                ++ be8 (if (s.arbiter o).silenced then 1 else 0)))
          ∧ ∀ o, ((s.arbiter o).active = none → s.bellAsserted o = false)
            ∧ ∀ c, (s.arbiter o).active = some c →
              (c.copy.pass = [] → s.bellAsserted o = true)
              ∧ ∀ g, c.copy.pass[c.segment]? = some g → s.bellAsserted o = g.level)
    ∧ (∀ (o : Nat) (c : Cadence) (s : State), s.running = true → o < 4 → (s.arbiter o).active = some c →
      c.timer = some 0 →
      ∃ t : State, exec (.segmentEnd o) s = .next t ∧ t = { s with arbiters := t.arbiters }
        ∧ (∀ k, k ≠ o → t.arbiter k = s.arbiter k)
        ∧ (∀ g, c.copy.pass[c.segment + 1]? = some g →
            t.arbiter o =
              { s.arbiter o with active := some { c with segment := c.segment + 1, timer := some g.duration } })
        ∧ (c.copy.pass.length ≤ c.segment + 1 → ∀ g, c.copy.pass[0]? = some g →
            (c.passes = .endless →
              t.arbiter o = { s.arbiter o with active := some { c with segment := 0, timer := some g.duration } })
            ∧ (∀ n, c.passes = .finite n → 1 < n →
              t.arbiter o =
                { s.arbiter o with
                  active := some { c with segment := 0, passes := .finite (n - 1), timer := some g.duration } }))
        ∧ (c.copy.pass.length ≤ c.segment + 1 → ∀ n, c.passes = .finite n → n ≤ 1 →
            ((s.arbiter o).waiting = none → t.arbiter o = ⟨none, none, false⟩)
            ∧ ∀ q g rest, (s.arbiter o).waiting = some q → (s.pattern q.pattern).segments = g :: rest →
                g.duration ≠ 0 →
                t.arbiter o =
                  ⟨some ⟨q.pattern, s.pattern q.pattern, q.priority, 0, .finite (s.pattern q.pattern).repeats,
                    some g.duration⟩, none, false⟩)
        ∧ (c.copy.pass.length ≤ c.segment + 1 → ∀ n q, c.passes = .finite n → n ≤ 1 → (s.arbiter o).waiting = some q →
            (∀ g rest, (s.pattern q.pattern).segments = g :: rest → g.duration = 0) →
            t.arbiter o = ⟨none, none, false⟩))

/-! ## Evacuation -/

/-- EVACUATE, the fire level turning ACTIVE, or the chain level turning ACTIVE while sensing is ARMED and the drive is
off, in phase NORMAL: the phase and cause, the snapshot time, the roll of INSIDE workers and of UNKNOWN ones with an
open attendance, its two counts, every release ended, the tone on all four outputs, a walking close suspended, the
EVACUATING change flag; the journal is offered one UNUSED entry for each punch given up, in ascending lane order, and
then the EVAC START entry with the cause set, and after them (the model's reading, log entry 13, DEDUCED) one ALERT of
EVACUATING, SET and without a lane, when the flag was clear; the reply to EVACUATE comes after these frames (log entry 12,
DEDUCED); the level that turned is ACTIVE, and the other level, the samples, sensing, the inside count, the badge map, the
clock, every table and all else stand. While evacuating EVACUATE, FIRE, and CHAIN while sensing is ARMED and
the drive is off, add their cause and do nothing else; a chain level that is no cause changes the level alone. -/
def Obligations.EvacuationStarts : Prop :=
  (∀ (i : Instr) (s : State) (c : Causes),
    ((∃ b tag, i = .evacuate b tag ∧ Ready i s ∧ c = { s.evac.causes with command := true })
      ∨ (i = .fireActive ∧ s.running = true ∧ s.evac.fireLevel = false ∧ s.evac.fireSamples = (true, true)
          ∧ c = { s.evac.causes with fire := true })
      ∨ (i = .chainLevelActive ∧ s.running = true ∧ s.evac.chainLevel = false ∧ s.evac.chainSamples = (true, true)
          ∧ s.evac.armed = true ∧ s.evac.causes.fire = false ∧ s.evac.causes.command = false
          ∧ c = { s.evac.causes with chain := true })) →
    s.evac.evacuating = false → Table.wf Worker.zeroed s.workers = true →
    ∃ t : State,
      exec i s = .next (match i with | .evacuate b tag => t.replyUnless b 112#8 tag .ok [] | _ => t)
      ∧ (∀ r : State, r = (match i with | .evacuate _ _ => s.taken | _ => s) →
          t = { r with
            workers := t.workers, lanes := t.lanes, arbiters := t.arbiters, journal := t.journal
            changes := t.changes, close := t.close, evac := t.evac
            link := { r.link with upQueue := t.link.upQueue } })
      ∧ t.evac =
          { s.evac with
            evacuating := true, causes := c, snapshot := t.evac.snapshot, rollSize := t.evac.rollSize
            unaccounted := t.evac.unaccounted
            fireLevel := (match i with | .fireActive => true | _ => s.evac.fireLevel)
            chainLevel := (match i with | .chainLevelActive => true | _ => s.evac.chainLevel) }
      ∧ t.evac.evacuating = true ∧ t.evac.causes = c
      ∧ t.evac.snapshot = (if s.clock.valid then .time s.clock.gateTime else .unset)
      ∧ t.evac.rollSize = t.evac.unaccounted ∧ t.evac.unaccounted = t.unaccountedRecords
      ∧ (∀ j, t.worker j =
          { s.worker j with muster :=
              if (s.worker j).status ≠ .free
                  ∧ ((s.worker j).presence = .inside
                    ∨ ((s.worker j).presence = .unknown ∧ (s.worker j).attendance.isSome = true))
                then .unaccounted else .none })
      ∧ (∀ n, n < 16 →
          ((s.lane n).state = .released →
            t.lane n = { s.lane n with state := .idle, releaseTimer := none, punch := none })
          ∧ ((s.lane n).state ≠ .released → t.lane n = s.lane n))
      ∧ (∀ o, o < 4 → ∃ cd, t.arbiter o = ⟨some cd, none, false⟩ ∧ cd.priority = 4 ∧ cd.passes = .endless
          ∧ cd.copy = s.pattern s.part.evacPattern ∧ cd.segment = 0)
      ∧ t.close = { s.close with phase := if s.close.phase = .walking then .suspended else s.close.phase }
      ∧ t.changes.evacuating = true
      ∧ (∀ v : State, v =
          ((List.range 16).filterMap (fun n =>
              match (s.lane n).state, (s.lane n).punch with
              | .released, some p =>
                some (EntryBody.punch (match p.verdictTime with | some v => .time v | none => .unset) n p.code
                  (some p.worker) p.direction .unused none
                  ⟨false, decide (p.soft = some Soft.softPassback), decide (p.soft = some Soft.passbackOut), false, false,
                    false, false⟩)
              | _, _ => none) ++ [EntryBody.evacStart c]).foldl (fun u body => offerEntry body u) s →
          t.journal = v.journal ∧ t.changes = { v.changes with evacuating := true }
          ∧ Alerts v t (v.alertOf (!s.changes.evacuating) 6 255 1))
      ∧ t.insideCount = s.insideCount ∧ t.badges = s.badges ∧ t.clock = s.clock)
    ∧ ((∀ (b : Bool) (tag : Byte) (s : State), Ready (.evacuate b tag) s → s.evac.evacuating = true →
        exec (.evacuate b tag) s =
          .next
            (({ s.taken with evac := { s.evac with causes := { s.evac.causes with command := true } } }).replyUnless b
              112#8 tag .ok []))
      ∧ (∀ s : State, s.running = true → s.evac.evacuating = true → s.evac.fireLevel = false →
          s.evac.fireSamples = (true, true) →
          exec .fireActive s =
            .next { s with evac := { s.evac with fireLevel := true, causes := { s.evac.causes with fire := true } } })
      ∧ (∀ s : State, s.running = true → s.evac.evacuating = true → s.evac.chainLevel = false →
          s.evac.chainSamples = (true, true) → s.evac.armed = true → s.evac.causes.fire = false →
          s.evac.causes.command = false →
          exec .chainLevelActive s =
            .next { s with evac := { s.evac with chainLevel := true, causes := { s.evac.causes with chain := true } } })
      ∧ (∀ s : State, s.running = true → s.evac.chainLevel = false → s.evac.chainSamples = (true, true) →
          s.evac.armed = false ∨ s.evac.causes.fire = true ∨ s.evac.causes.command = true →
          exec .chainLevelActive s = .next { s with evac := { s.evac with chainLevel := true } }))

/-- The fire level turning INACTIVE leaves the cause set; the chain level turning INACTIVE makes sensing ARMED.
EVACUATION CLEAR: refused with HAZARD_ACTIVE while the fire level is ACTIVE and with NOT_PERMITTED outside
evacuation; otherwise phase NORMAL, an empty cause set, sensing DISARMED, every INSIDE presence of a record in use UNKNOWN,
the inside count 0, held timers of OPEN lanes restarted, idle bells, a suspended close walking; then the expiries due are
taken on that state, the EVAC END entry is offered, and the EVACUATING change flag sets, with one ALERT, CLEAR and without
a lane, when it was clear (the alert after the entry: the model's reading, log entry 13, DEDUCED; the reply's frame after
these frames: log entry 12, DEDUCED). With no deadline reached the expiries change nothing. -/
def Obligations.EvacuationEnds : Prop :=
  ((∀ s : State, s.running = true → s.evac.fireLevel = true → s.evac.fireSamples = (false, false) →
      exec .fireInactive s = .next { s with evac := { s.evac with fireLevel := false } })
    ∧ ∀ s : State, s.running = true → s.evac.chainLevel = true → s.evac.chainSamples = (false, false) →
        exec .chainLevelInactive s = .next { s with evac := { s.evac with chainLevel := false, armed := true } })
    ∧ (∀ (tag : Byte) (s : State), Ready (.evacuationClear tag) s → Table.wf Worker.zeroed s.workers = true →
      (s.evac.fireLevel = true →
        exec (.evacuationClear tag) s = .next (s.taken.reply 113#8 tag .hazardActive []))
      ∧ (s.evac.fireLevel = false → s.evac.evacuating = false →
        exec (.evacuationClear tag) s = .next (s.taken.reply 113#8 tag .notPermitted []))
      ∧ (s.evac.fireLevel = false → s.evac.evacuating = true →
        ∃ u v w : State, exec (.evacuationClear tag) s = .next (u.reply 113#8 tag .ok [])
          ∧ v = { s.taken with
              evac := { s.evac with evacuating := false, causes := Causes.empty, armed := false }
              workers := v.workers, insideCount := 0, lanes := v.lanes, arbiters := v.arbiters
              close := { s.close with phase := if s.close.phase = .suspended then .walking else s.close.phase } }
          ∧ (∀ j, v.worker j =
              { s.worker j with presence :=
                  if (s.worker j).status ≠ .free ∧ (s.worker j).presence = .inside then .unknown
                  else (s.worker j).presence })
          ∧ (∀ n, v.lane n =
              if n < 16 ∧ (s.lane n).state = .opened then
                { s.lane n with heldTimer := some (10 * (s.laneRecord n).heldTime) }
              else s.lane n)
          ∧ (∀ o, v.arbiter o = ⟨none, none, false⟩)
          ∧ w = offerEntry .evacEnd (takeExpiries v)
          ∧ u = { w with
              changes := { w.changes with evacuating := true }, link := { w.link with upQueue := u.link.upQueue } }
          ∧ Alerts w u (w.alertOf (!s.changes.evacuating) 6 255 0)
          ∧ u.evac.evacuating = false ∧ u.evac.causes = Causes.empty ∧ u.evac.armed = false
          ∧ u.evac.rollSize = s.evac.rollSize ∧ u.evac.snapshot = s.evac.snapshot
          ∧ u.evac.unaccounted = s.evac.unaccounted
          ∧ (∀ o, u.arbiter o = Arbiter.idle)
          ∧ u.close.phase = (if s.close.phase = .suspended then .walking else s.close.phase)
          ∧ (∀ n, n < 16 →
              u.lane n =
                if (s.lane n).state = .opened then
                  { s.lane n with heldTimer := some (10 * (s.laneRecord n).heldTime) }
                else s.lane n)
          ∧ u.changes.evacuating = true ∧ u.clock = s.clock ∧ u.badges = s.badges
          ∧ ((∀ j a, (s.worker j).attendance = some a → s.clock.gateTime < a.deadline) →
              u.insideCount = 0 ∧ u.journal.next = s.journal.next + 1
              ∧ ∀ j, u.worker j =
                  { s.worker j with presence :=
                      if (s.worker j).status ≠ .free ∧ (s.worker j).presence = .inside then .unknown
                      else (s.worker j).presence })))

/-! ## Invariants -/

/-- After reset the invariants Consistent, RollAgrees, Bounded, ClockRange, LanesFit, PhasesAgree and TablesCanonical
hold. -/
def Obligations.ResetMeetsTheInvariants : Prop :=
  Consistent State.reset ∧ RollAgrees State.reset ∧ Bounded State.reset ∧ ClockRange State.reset.clock
    ∧ LanesFit State.reset ∧ PhasesAgree State.reset ∧ TablesCanonical State.reset

/-- From every state in which the worker records, the inside count, the badge map and the released punches agree and the
lanes fit, a step leads to a state in which they agree: FREE records are zeroed, the inside count is the number of
INSIDE records in use, an OUTSIDE record and an UNSET clock have no open attendance, the badge map rises and names
records in use, and a released punch names one. -/
def Obligations.StepsKeepConsistency : Prop :=
  ∀ s t : State, Consistent s → LanesFit s → step s = .next t → Consistent t

/-- From every state in which the unaccounted count is the number of records marked UNACCOUNTED, none of them FREE, and
at most the roll size, a step leads to such a state. -/
def Obligations.StepsKeepTheRoll : Prop :=
  ∀ s t : State, RollAgrees s → step s = .next t → RollAgrees t

/-- A step keeps the request buffer, the upward queue, the forwarding buffers, the journal and the badge map within
their capacities, and what each receiver holds within a frame that is not whole; and it keeps the clock's items within
their ranges, with slew phase 0 while no slew remains. -/
def Obligations.StepsKeepTheBounds : Prop :=
  (∀ s t : State, Bounded s → step s = .next t → Bounded t)
    ∧ (∀ s t : State, ClockRange s.clock → step s = .next t → ClockRange t.clock)

/-- From every state in which the lanes fit, a step leads to such a state: a lane is DISABLED exactly when its record is
not enabled, its release timer runs exactly while RELEASED, its held timer only while OPEN, it holds a punch only
while RELEASED, it is either waiting to poll or in an exchange, LOST is set exactly in state LOST, FORCED and HELD
only while OPEN. -/
def Obligations.StepsKeepTheLanes : Prop :=
  ∀ s t : State, LanesFit s → step s = .next t → LanesFit t

/-- From every state in which they agree, a step leads to such a state: no cause outside evacuation, no ACTIVE fire
level outside evacuation, a close WALKING only outside it and SUSPENDED only within it, the gather timer running
exactly while GATHERING. -/
def Obligations.StepsKeepThePhases : Prop :=
  ∀ s t : State, PhasesAgree s → step s = .next t → PhasesAgree t

/-- The model's own form of the part's tables (log entry 36, DESIGN CHOICE: indices rising, no entry listed that equals the
cold-start one; the spec gives the cold-start entries and no such form) is kept by every step, so that equal tables are
equal data. -/
def Obligations.StepsKeepTables : Prop :=
  ∀ s t : State, TablesCanonical s → step s = .next t → TablesCanonical t
end

