-- ==== Sys2Proof/Laws/Tables.lean ====
section
/-! SUPPORT. The laws of the numbered tables: reading after a write, reading after an update, and that every table
operation keeps the canonical form, in which equal tables are equal lists. -/

namespace Sys2Proof.Laws

open Machine

variable {α : Type}

/-! ## The canonical form in other words -/

/-- Indices rise strictly, as a relation between all pairs. -/
def Rising (t : Table α) : Prop := t.Pairwise fun a b => a.1 < b.1

theorem rising_cons {a : Nat × α} {t : Table α} :
    Table.rising (a :: t) = true ↔ (∀ e ∈ t, a.1 < e.1) ∧ Table.rising t = true := by
  induction t generalizing a with
  | nil => simp [Table.rising]
  | cons b t ih =>
    simp only [Table.rising, Bool.and_eq_true, decide_eq_true_eq, List.mem_cons, forall_eq_or_imp]
    rw [ih]
    constructor
    · rintro ⟨h, h1, h2⟩
      exact ⟨⟨h, fun e he => h.trans (h1 e he)⟩, h1, h2⟩
    · rintro ⟨⟨h, -⟩, h1, h2⟩
      exact ⟨h, h1, h2⟩

theorem rising_iff {t : Table α} : Table.rising t = true ↔ Rising t := by
  induction t with
  | nil => simp [Table.rising, Rising]
  | cons a t ih => rw [rising_cons, ih, Rising, Rising, List.pairwise_cons]

section Canonical

variable [DecidableEq α] {d : α}

theorem wf_iff {t : Table α} : Table.wf d t = true ↔ Rising t ∧ ∀ e ∈ t, e.2 ≠ d := by
  simp [Table.wf, rising_iff]

@[simp] theorem wf_nil : Table.wf d ([] : Table α) = true := rfl

end Canonical

/-! ## Reading -/

theorem get_of_mem {d : α} {t : Table α} (h : Rising t) {i : Nat} {v : α} (hm : (i, v) ∈ t) : Table.get d t i = v := by
  induction t with
  | nil => simp at hm
  | cons a t ih =>
    obtain ⟨k, w⟩ := a
    obtain ⟨h1, h2⟩ := List.pairwise_cons.1 h
    rcases List.mem_cons.1 hm with he | hm
    · cases he; simp [Table.get]
    · have := h1 _ hm
      simp only [Table.get]
      rw [if_neg (by simp at this; omega), ih h2 hm]

theorem get_of_not_mem {d : α} {t : Table α} {i : Nat} (h : ∀ e ∈ t, e.1 ≠ i) : Table.get d t i = d := by
  induction t with
  | nil => rfl
  | cons a t ih =>
    obtain ⟨k, w⟩ := a
    have h0 := h (k, w) (by simp)
    simp only [Table.get]
    rw [if_neg h0, ih fun e he => h e (List.mem_cons_of_mem _ he)]

/-- An entry that reads as other than the cold-start entry is listed. -/
theorem mem_of_get {d : α} {t : Table α} {i : Nat} (h : Table.get d t i ≠ d) : (i, Table.get d t i) ∈ t := by
  induction t with
  | nil => exact absurd rfl h
  | cons a t ih =>
    obtain ⟨k, w⟩ := a
    simp only [Table.get] at h ⊢
    split
    · next hk => subst hk; simp
    · next hk => rw [if_neg hk] at h; exact List.mem_cons_of_mem _ (ih h)

theorem get_erase_ne {d : α} {t : Table α} {i j : Nat} (h : j ≠ i) : Table.get d (Table.erase t i) j = Table.get d t j := by
  induction t with
  | nil => rfl
  | cons a t ih =>
    obtain ⟨k, w⟩ := a
    simp only [Table.erase, ne_eq, decide_not] at ih ⊢
    by_cases hk : k = i
    · subst hk; simp [Table.get, Ne.symm h, ih]
    · simp [hk, Table.get, ih]

theorem get_erase_same {d : α} {t : Table α} {i : Nat} : Table.get d (Table.erase t i) i = d :=
  get_of_not_mem (by simp [Table.erase])

theorem get_insert_same {d : α} {t : Table α} {i : Nat} {v : α} (h : ∀ e ∈ t, e.1 ≠ i) :
    Table.get d (Table.insert t i v) i = v := by
  induction t with
  | nil => simp [Table.insert, Table.get]
  | cons a t ih =>
    obtain ⟨k, w⟩ := a
    have h0 : k ≠ i := h (k, w) (by simp)
    simp only [Table.insert]
    split
    · simp [Table.get]
    · simp [Table.get, h0, ih fun e he => h e (List.mem_cons_of_mem _ he)]

theorem get_insert_ne {d : α} {t : Table α} {i j : Nat} {v : α} (h : j ≠ i) :
    Table.get d (Table.insert t i v) j = Table.get d t j := by
  induction t with
  | nil => simp [Table.insert, Table.get, Ne.symm h]
  | cons a t ih =>
    obtain ⟨k, w⟩ := a
    simp only [Table.insert]
    split
    · simp [Table.get, Ne.symm h]
    · simp [Table.get, ih]

theorem erase_ne {t : Table α} {i : Nat} : ∀ e ∈ Table.erase t i, e.1 ≠ i := by simp [Table.erase]

section Set

variable [DecidableEq α] {d : α} {t : Table α} {i j : Nat} {v : α}

/-- A read after a write to the same index gives the value written. -/
@[simp] theorem get_set_same : Table.get d (Table.set d t i v) i = v := by
  unfold Table.set
  split
  · next h => rw [get_erase_same, h]
  · exact get_insert_same erase_ne

/-- A write leaves every other index alone. -/
theorem get_set_ne (h : j ≠ i) : Table.get d (Table.set d t i v) j = Table.get d t j := by
  unfold Table.set
  split
  · exact get_erase_ne h
  · rw [get_insert_ne h, get_erase_ne h]

/-- A read after a write, at any index. -/
theorem get_set : Table.get d (Table.set d t i v) j = if j = i then v else Table.get d t j := by
  split
  · next h => rw [h, get_set_same]
  · next h => exact get_set_ne h

end Set

/-! ## The canonical form is kept -/

theorem mem_insert {t : Table α} {i : Nat} {v : α} {e : Nat × α} :
    e ∈ Table.insert t i v ↔ e = (i, v) ∨ e ∈ t := by
  induction t with
  | nil => simp [Table.insert]
  | cons a t ih =>
    obtain ⟨k, w⟩ := a
    simp only [Table.insert]
    split
    · simp
    · simp only [List.mem_cons, ih]; tauto

theorem rising_erase {t : Table α} (h : Rising t) (i : Nat) : Rising (Table.erase t i) := h.filter _

theorem rising_insert {t : Table α} (h : Rising t) {i : Nat} (hi : ∀ e ∈ t, e.1 ≠ i) (v : α) :
    Rising (Table.insert t i v) := by
  induction t with
  | nil => simp [Table.insert, Rising]
  | cons a t ih =>
    obtain ⟨k, w⟩ := a
    obtain ⟨h1, h2⟩ := List.pairwise_cons.1 h
    have h0 : k ≠ i := hi (k, w) (by simp)
    simp only [Table.insert]
    split
    · next hk =>
      refine List.pairwise_cons.2 ⟨?_, h⟩
      intro e he
      rcases List.mem_cons.1 he with rfl | he
      · exact hk
      · exact hk.trans (h1 e he)
    · next hk =>
      refine List.pairwise_cons.2 ⟨?_, ih h2 fun e he => hi e (List.mem_cons_of_mem _ he)⟩
      intro e he
      rcases mem_insert.1 he with rfl | he
      · simp; omega
      · exact h1 e he

section Keep

variable [DecidableEq α] {d : α} {t : Table α}

/-- `Table.set` keeps the canonical form. -/
theorem wf_set (h : Table.wf d t = true) (i : Nat) (v : α) : Table.wf d (Table.set d t i v) = true := by
  rw [wf_iff] at h ⊢
  unfold Table.set
  have he : ∀ e ∈ Table.erase t i, e.2 ≠ d := fun e he => h.2 e (List.mem_of_mem_filter he)
  split
  · exact ⟨rising_erase h.1 i, he⟩
  · next hv =>
    refine ⟨rising_insert (rising_erase h.1 i) erase_ne v, fun e hm => ?_⟩
    rcases mem_insert.1 hm with rfl | hm
    · exact hv
    · exact he e hm

/-- `Table.update` keeps the canonical form. -/
theorem wf_update (h : Table.wf d t = true) (f : α → α) : Table.wf d (Table.update d f t) = true := by
  rw [wf_iff] at h ⊢
  refine ⟨List.Pairwise.filter _ ?_, by simp [Table.update]⟩
  exact List.pairwise_map.2 h.1

/-- An update that keeps the cold-start entry acts on what every index reads as. -/
theorem get_update (h : Table.wf d t = true) {f : α → α} (hf : f d = d) (i : Nat) :
    Table.get d (Table.update d f t) i = f (Table.get d t i) := by
  have hr : Rising (Table.update d f t) := (wf_iff.1 (wf_update h f)).1
  by_cases hm : ∃ v, (i, v) ∈ t
  · obtain ⟨v, hm⟩ := hm
    rw [get_of_mem (wf_iff.1 h).1 hm]
    by_cases hv : f v = d
    · rw [hv]
      refine get_of_not_mem fun e he hi => ?_
      simp only [Table.update, List.mem_filter, List.mem_map, decide_eq_true_eq] at he
      obtain ⟨⟨⟨k, w⟩, hk, rfl⟩, hne⟩ := he
      simp only at hi hne
      subst hi
      have h1 := get_of_mem (d := d) (wf_iff.1 h).1 hk
      have h2 := get_of_mem (d := d) (wf_iff.1 h).1 hm
      exact hne (by rw [← h1, h2, hv])
    · exact get_of_mem hr (by
        simp only [Table.update, List.mem_filter, List.mem_map, decide_eq_true_eq]
        exact ⟨⟨(i, v), hm, rfl⟩, hv⟩)
  · have h1 : ∀ e ∈ t, e.1 ≠ i := fun e he hi => hm ⟨e.2, by rw [← hi]; exact he⟩
    rw [get_of_not_mem h1, hf]
    refine get_of_not_mem fun e he => ?_
    simp only [Table.update, List.mem_filter, List.mem_map] at he
    obtain ⟨⟨e', hk, rfl⟩, -⟩ := he
    exact h1 e' hk

/-- Tables in canonical form that read alike are the same list. -/
theorem table_ext {u : Table α} (ht : Table.wf d t = true) (hu : Table.wf d u = true)
    (h : ∀ i, Table.get d t i = Table.get d u i) : t = u := by
  have key : ∀ (a b : Table α), Table.wf d a = true → Table.wf d b = true →
      (∀ i, Table.get d a i = Table.get d b i) → ∀ e ∈ a, e ∈ b := by
    intro a b ha hb hab e he
    have h1 := get_of_mem (d := d) (wf_iff.1 ha).1 (i := e.1) (v := e.2) he
    have h2 : Table.get d b e.1 = e.2 := by rw [← hab, h1]
    have h3 := mem_of_get (d := d) (t := b) (i := e.1) (by rw [h2]; exact (wf_iff.1 ha).2 e he)
    rw [h2] at h3; exact h3
  refine List.Perm.eq_of_pairwise (le := fun a b : Nat × α => a.1 < b.1) ?_ (wf_iff.1 ht).1 (wf_iff.1 hu).1 ?_
  · intro a b _ _ h1 h2; exact absurd h1 (by simp at *; omega)
  · have nd : ∀ w : Table α, Rising w → w.Nodup := fun w hw =>
      List.Pairwise.imp (S := fun a b => a ≠ b) (fun hab => by rintro rfl; exact lt_irrefl _ hab) hw
    exact (List.perm_ext_iff_of_nodup (nd _ (wf_iff.1 ht).1) (nd _ (wf_iff.1 hu).1)).2 fun e =>
      ⟨key t u ht hu h e, key u t hu ht (fun i => (h i).symm) e⟩

/-! ## Counting entries -/

/-- The number of listed entries that pass a test. -/
def count (p : α → Bool) (t : Table α) : Nat := (t.filter fun e => p e.2).length

omit [DecidableEq α] in
theorem count_insert (p : α → Bool) (t : Table α) (i : Nat) (v : α) :
    count p (Table.insert t i v) = count p t + if p v then 1 else 0 := by
  induction t with
  | nil => by_cases h : p v <;> simp [Table.insert, count, h]
  | cons a t ih =>
    obtain ⟨k, w⟩ := a
    simp only [Table.insert]
    split
    · by_cases h : p v <;> simp [count, h]
    · simp only [count, List.filter_cons] at ih ⊢
      split
      · simp only [List.length_cons, ih]; omega
      · exact ih

omit [DecidableEq α] in
theorem count_erase (p : α → Bool) (hd : p d = false) (h : Rising t) (i : Nat) :
    count p (Table.erase t i) + (if p (Table.get d t i) then 1 else 0) = count p t := by
  induction t with
  | nil => simp [Table.erase, Table.get, count, hd]
  | cons a t ih =>
    obtain ⟨k, w⟩ := a
    obtain ⟨h1, h2⟩ := List.pairwise_cons.1 h
    by_cases hk : k = i
    · subst hk
      have : Table.erase ((k, w) :: t) k = t := by
        simp only [Table.erase, ne_eq, not_true_eq_false, decide_false, Bool.false_eq_true, not_false_eq_true,
          List.filter_cons_of_neg]
        refine List.filter_eq_self.2 fun e he => ?_
        have h0 : k < e.1 := h1 e he
        simp only [decide_eq_true_eq]; omega
      rw [this]
      by_cases hp : p w <;> simp [Table.get, count, hp]
    · have he : Table.erase ((k, w) :: t) i = (k, w) :: Table.erase t i := by simp [Table.erase, hk]
      rw [he]
      simp only [Table.get, if_neg hk, count, List.filter_cons]
      have := ih h2
      unfold count at this
      by_cases hp : p w = true
      · simp only [hp, if_true, List.length_cons]; omega
      · simp only [hp]; simpa using this

/-- How a write changes the number of entries that pass a test which the cold-start entry does not. -/
theorem count_set (p : α → Bool) (hd : p d = false) (h : Table.wf d t = true) (i : Nat) (v : α) :
    count p (Table.set d t i v) + (if p (Table.get d t i) then 1 else 0) = count p t + if p v then 1 else 0 := by
  have he := count_erase p hd (wf_iff.1 h).1 i
  unfold Table.set
  split
  · next hv => rw [hv, hd]; simpa using he
  · rw [count_insert]; omega

/-- An update after which no entry passes a test leaves none to count. -/
theorem count_update_zero (p : α → Bool) (f : α → α) (hf : ∀ v, p (f v) = false) :
    count p (Table.update d f t) = 0 := by
  simp only [count, Table.update, List.length_eq_zero_iff, List.filter_eq_nil_iff, List.mem_filter, List.mem_map]
  rintro e ⟨⟨e', -, rfl⟩, -⟩
  simp [hf]

/-- An update that keeps a test's answer keeps the count. -/
theorem count_update (p : α → Bool) (hd : p d = false) (f : α → α) (hf : ∀ v, p (f v) = p v) :
    count p (Table.update d f t) = count p t := by
  have key : ∀ e : Nat × α, (decide (f e.2 ≠ d) && p (f e.2)) = p e.2 := by
    intro e
    rw [hf]
    by_cases hw : f e.2 = d
    · have : p e.2 = false := by rw [← hf, hw, hd]
      simp [this]
    · simp [hw]
  unfold count Table.update
  rw [List.filter_filter, List.filter_map, List.length_map]
  congr 1
  refine List.filter_congr fun e _ => ?_
  simp only [Function.comp_apply]
  rw [Bool.and_comm]; exact key e

end Keep

end Sys2Proof.Laws
end

