-- ==== Sys2Proof/Laws/State.lean ====
section
/-! SUPPORT. One lemma for each field of the state under each record write, and for each accessor: what a write of a
worker record, a lane or an arbiter leaves alone, and what it reads as afterwards. -/

namespace Sys2Proof.Laws

open Machine

section

variable (s : State) (i j : Nat) (w : Worker)

@[simp] theorem setWorker_power : (s.setWorker i w).power = s.power := rfl
@[simp] theorem setWorker_clock : (s.setWorker i w).clock = s.clock := rfl
@[simp] theorem setWorker_shifts : (s.setWorker i w).shifts = s.shifts := rfl
@[simp] theorem setWorker_crews : (s.setWorker i w).crews = s.crews := rfl
@[simp] theorem setWorker_rates : (s.setWorker i w).rates = s.rates := rfl
@[simp] theorem setWorker_part : (s.setWorker i w).part = s.part := rfl
@[simp] theorem setWorker_insideCount : (s.setWorker i w).insideCount = s.insideCount := rfl
@[simp] theorem setWorker_badges : (s.setWorker i w).badges = s.badges := rfl
@[simp] theorem setWorker_laneTable : (s.setWorker i w).laneTable = s.laneTable := rfl
@[simp] theorem setWorker_lanes : (s.setWorker i w).lanes = s.lanes := rfl
@[simp] theorem setWorker_journal : (s.setWorker i w).journal = s.journal := rfl
@[simp] theorem setWorker_schedule : (s.setWorker i w).schedule = s.schedule := rfl
@[simp] theorem setWorker_patterns : (s.setWorker i w).patterns = s.patterns := rfl
@[simp] theorem setWorker_arbiters : (s.setWorker i w).arbiters = s.arbiters := rfl
@[simp] theorem setWorker_evac : (s.setWorker i w).evac = s.evac := rfl
@[simp] theorem setWorker_close : (s.setWorker i w).close = s.close := rfl
@[simp] theorem setWorker_holding : (s.setWorker i w).holding = s.holding := rfl
@[simp] theorem setWorker_changes : (s.setWorker i w).changes = s.changes := rfl
@[simp] theorem setWorker_link : (s.setWorker i w).link = s.link := rfl
@[simp] theorem setWorker_pending : (s.setWorker i w).pending = s.pending := rfl
@[simp] theorem setWorker_shift_read : (s.setWorker i w).shift j = s.shift j := rfl
@[simp] theorem setWorker_crew_read : (s.setWorker i w).crew j = s.crew j := rfl
@[simp] theorem setWorker_rate_read : (s.setWorker i w).rate j = s.rate j := rfl
@[simp] theorem setWorker_laneRecord_read : (s.setWorker i w).laneRecord j = s.laneRecord j := rfl
@[simp] theorem setWorker_lane_read : (s.setWorker i w).lane j = s.lane j := rfl
@[simp] theorem setWorker_bellEntry_read : (s.setWorker i w).bellEntry j = s.bellEntry j := rfl
@[simp] theorem setWorker_pattern_read : (s.setWorker i w).pattern j = s.pattern j := rfl
@[simp] theorem setWorker_arbiter_read : (s.setWorker i w).arbiter j = s.arbiter j := rfl
@[simp] theorem setWorker_holdingEntry_read : (s.setWorker i w).holdingEntry j = s.holdingEntry j := rfl

@[simp] theorem setWorker_same : (s.setWorker i w).worker i = w := get_set_same

theorem setWorker_ne (h : j ≠ i) : (s.setWorker i w).worker j = s.worker j := get_set_ne h

theorem setWorker_read : (s.setWorker i w).worker j = if j = i then w else s.worker j := get_set

end

section

variable (s : State) (i j : Nat) (l : Lane)

@[simp] theorem setLane_power : (s.setLane i l).power = s.power := rfl
@[simp] theorem setLane_clock : (s.setLane i l).clock = s.clock := rfl
@[simp] theorem setLane_shifts : (s.setLane i l).shifts = s.shifts := rfl
@[simp] theorem setLane_crews : (s.setLane i l).crews = s.crews := rfl
@[simp] theorem setLane_rates : (s.setLane i l).rates = s.rates := rfl
@[simp] theorem setLane_part : (s.setLane i l).part = s.part := rfl
@[simp] theorem setLane_workers : (s.setLane i l).workers = s.workers := rfl
@[simp] theorem setLane_insideCount : (s.setLane i l).insideCount = s.insideCount := rfl
@[simp] theorem setLane_badges : (s.setLane i l).badges = s.badges := rfl
@[simp] theorem setLane_laneTable : (s.setLane i l).laneTable = s.laneTable := rfl
@[simp] theorem setLane_journal : (s.setLane i l).journal = s.journal := rfl
@[simp] theorem setLane_schedule : (s.setLane i l).schedule = s.schedule := rfl
@[simp] theorem setLane_patterns : (s.setLane i l).patterns = s.patterns := rfl
@[simp] theorem setLane_arbiters : (s.setLane i l).arbiters = s.arbiters := rfl
@[simp] theorem setLane_evac : (s.setLane i l).evac = s.evac := rfl
@[simp] theorem setLane_close : (s.setLane i l).close = s.close := rfl
@[simp] theorem setLane_holding : (s.setLane i l).holding = s.holding := rfl
@[simp] theorem setLane_changes : (s.setLane i l).changes = s.changes := rfl
@[simp] theorem setLane_link : (s.setLane i l).link = s.link := rfl
@[simp] theorem setLane_pending : (s.setLane i l).pending = s.pending := rfl
@[simp] theorem setLane_shift_read : (s.setLane i l).shift j = s.shift j := rfl
@[simp] theorem setLane_crew_read : (s.setLane i l).crew j = s.crew j := rfl
@[simp] theorem setLane_rate_read : (s.setLane i l).rate j = s.rate j := rfl
@[simp] theorem setLane_worker_read : (s.setLane i l).worker j = s.worker j := rfl
@[simp] theorem setLane_laneRecord_read : (s.setLane i l).laneRecord j = s.laneRecord j := rfl
@[simp] theorem setLane_bellEntry_read : (s.setLane i l).bellEntry j = s.bellEntry j := rfl
@[simp] theorem setLane_pattern_read : (s.setLane i l).pattern j = s.pattern j := rfl
@[simp] theorem setLane_arbiter_read : (s.setLane i l).arbiter j = s.arbiter j := rfl
@[simp] theorem setLane_holdingEntry_read : (s.setLane i l).holdingEntry j = s.holdingEntry j := rfl

@[simp] theorem setLane_same : (s.setLane i l).lane i = l := get_set_same

theorem setLane_ne (h : j ≠ i) : (s.setLane i l).lane j = s.lane j := get_set_ne h

theorem setLane_read : (s.setLane i l).lane j = if j = i then l else s.lane j := get_set

end

section

variable (s : State) (i j : Nat) (a : Arbiter)

@[simp] theorem setArbiter_power : (s.setArbiter i a).power = s.power := rfl
@[simp] theorem setArbiter_clock : (s.setArbiter i a).clock = s.clock := rfl
@[simp] theorem setArbiter_shifts : (s.setArbiter i a).shifts = s.shifts := rfl
@[simp] theorem setArbiter_crews : (s.setArbiter i a).crews = s.crews := rfl
@[simp] theorem setArbiter_rates : (s.setArbiter i a).rates = s.rates := rfl
@[simp] theorem setArbiter_part : (s.setArbiter i a).part = s.part := rfl
@[simp] theorem setArbiter_workers : (s.setArbiter i a).workers = s.workers := rfl
@[simp] theorem setArbiter_insideCount : (s.setArbiter i a).insideCount = s.insideCount := rfl
@[simp] theorem setArbiter_badges : (s.setArbiter i a).badges = s.badges := rfl
@[simp] theorem setArbiter_laneTable : (s.setArbiter i a).laneTable = s.laneTable := rfl
@[simp] theorem setArbiter_lanes : (s.setArbiter i a).lanes = s.lanes := rfl
@[simp] theorem setArbiter_journal : (s.setArbiter i a).journal = s.journal := rfl
@[simp] theorem setArbiter_schedule : (s.setArbiter i a).schedule = s.schedule := rfl
@[simp] theorem setArbiter_patterns : (s.setArbiter i a).patterns = s.patterns := rfl
@[simp] theorem setArbiter_evac : (s.setArbiter i a).evac = s.evac := rfl
@[simp] theorem setArbiter_close : (s.setArbiter i a).close = s.close := rfl
@[simp] theorem setArbiter_holding : (s.setArbiter i a).holding = s.holding := rfl
@[simp] theorem setArbiter_changes : (s.setArbiter i a).changes = s.changes := rfl
@[simp] theorem setArbiter_link : (s.setArbiter i a).link = s.link := rfl
@[simp] theorem setArbiter_pending : (s.setArbiter i a).pending = s.pending := rfl
@[simp] theorem setArbiter_shift_read : (s.setArbiter i a).shift j = s.shift j := rfl
@[simp] theorem setArbiter_crew_read : (s.setArbiter i a).crew j = s.crew j := rfl
@[simp] theorem setArbiter_rate_read : (s.setArbiter i a).rate j = s.rate j := rfl
@[simp] theorem setArbiter_worker_read : (s.setArbiter i a).worker j = s.worker j := rfl
@[simp] theorem setArbiter_laneRecord_read : (s.setArbiter i a).laneRecord j = s.laneRecord j := rfl
@[simp] theorem setArbiter_lane_read : (s.setArbiter i a).lane j = s.lane j := rfl
@[simp] theorem setArbiter_bellEntry_read : (s.setArbiter i a).bellEntry j = s.bellEntry j := rfl
@[simp] theorem setArbiter_pattern_read : (s.setArbiter i a).pattern j = s.pattern j := rfl
@[simp] theorem setArbiter_holdingEntry_read : (s.setArbiter i a).holdingEntry j = s.holdingEntry j := rfl

@[simp] theorem setArbiter_same : (s.setArbiter i a).arbiter i = a := get_set_same

theorem setArbiter_ne (h : j ≠ i) : (s.setArbiter i a).arbiter j = s.arbiter j := get_set_ne h

theorem setArbiter_read : (s.setArbiter i a).arbiter j = if j = i then a else s.arbiter j := get_set

end

end Sys2Proof.Laws
end

