-- ==== Sys2Proof/Laws/Sending.lean ====
section
/-! SUPPORT. What offering alerts and notices can do: add frames to the upward queue and nothing else; and what each
operation on conditions and change flags does besides. -/

namespace Sys2Proof.Laws

open Machine

/-- `t` is `s` with frames added to the upward queue, which then holds at most 6 (R193). -/
def Sends (s t : State) : Prop :=
  ∃ q, t = { s with link := { s.link with upQueue := s.link.upQueue ++ q } } ∧ (q = [] ∨ (s.link.upQueue ++ q).length ≤ 6)

theorem Sends.refl (s : State) : Sends s s := ⟨[], by simp, .inl rfl⟩

theorem Sends.trans {s t u : State} (h1 : Sends s t) (h2 : Sends t u) : Sends s u := by
  obtain ⟨q, rfl, hq⟩ := h1
  obtain ⟨p, rfl, hp⟩ := h2
  refine ⟨q ++ p, by simp, ?_⟩
  rcases hp with rfl | hp
  · simpa using hq
  · exact .inr (by simpa using hp)

/-- The queue after sending is no longer than before, or holds at most 6 frames. -/
theorem Sends.length_le {s t : State} (h : Sends s t) : t.link.upQueue.length ≤ max s.link.upQueue.length 6 := by
  obtain ⟨q, rfl, rfl | hq⟩ := h
  · simp
  · simp at hq ⊢; omega

theorem offerFrame_sends (f : UpFrame) (s : State) : Sends s (offerFrame f s) := by
  unfold offerFrame
  split
  · next h => exact ⟨[f], rfl, .inr (by simp; omega)⟩
  · exact .refl s

theorem offerAlert_sends (lane : Nat) (a : Alert) (s : State) : Sends s (offerAlert lane a s) := by
  unfold offerAlert
  split
  · exact offerFrame_sends _ s
  · exact .refl s

/-- A fold of sending steps sends. -/
theorem foldl_sends {β : Type} {f : State → β → State} (hf : ∀ s b, Sends s (f s b)) (l : List β) (s : State) :
    Sends s (l.foldl f s) := by
  induction l generalizing s with
  | nil => exact .refl s
  | cons b l ih => exact (hf s b).trans (ih (f s b))

theorem offerAlerts_sends (lane : Nat) (l : List Alert) (s : State) : Sends s (offerAlerts lane l s) :=
  foldl_sends (fun t a => offerAlert_sends lane a t) _ s

@[simp] theorem offerAlerts_nil (lane : Nat) (s : State) : offerAlerts lane [] s = s := rfl

/-- The lane with new conditions, and the change flag set of each that changed (R77). -/
def flagged (l : Lane) (new : LaneConditions) : Lane :=
  { l with conditions := new, changes := l.changes.union (l.conditions.diff new) }

/-- A lane's conditions are written with their change flags; beyond that, only alerts are sent (R77, R78). -/
theorem setConditions_spec (lane : Nat) (new : LaneConditions) (s : State) :
    Sends (s.setLane lane (flagged (s.lane lane) new)) (setConditions lane new s) :=
  offerAlerts_sends lane _ _

/-- The journal's change flags are set as asked; beyond that, only alerts are sent (R151). -/
theorem flagJournal_spec (high full : Bool) (s : State) :
    Sends
      { s with changes := { s.changes with
          journalHigh := s.changes.journalHigh || high, journalFull := s.changes.journalFull || full } }
      (flagJournal high full s) :=
  offerAlerts_sends noLane _ _

/-- The journal's change flags follow a change of its conditions; beyond that, only alerts are sent (R151). -/
theorem updateJournalConditions_spec (before s : State) :
    Sends
      { s with changes := { s.changes with
          journalHigh := s.changes.journalHigh || (before.journalHigh ^^ s.journalHigh)
          journalFull := s.changes.journalFull || (before.journalFull ^^ s.journalFull) } }
      (updateJournalConditions before s) :=
  flagJournal_spec _ _ s

/-- The EVACUATING change flag is set; beyond that, only an alert is sent (R171). -/
theorem flagEvacuating_spec (s : State) :
    Sends { s with changes := { s.changes with evacuating := true } } (flagEvacuating s) := by
  unfold flagEvacuating
  split
  · exact .refl _
  · exact offerAlert_sends _ _ _

/-- The CLOSE_DONE change flag is set; beyond that, only an alert is sent (R136). -/
theorem flagCloseDone_spec (s : State) :
    Sends { s with changes := { s.changes with closeDone := true } } (flagCloseDone s) := by
  unfold flagCloseDone
  split
  · exact .refl _
  · exact offerAlert_sends _ _ _

end Sys2Proof.Laws
end

