-- ==== Sys2Proof/Laws/Journal.lean ====
section
/-! SUPPORT. What offering a journal entry can do (R143, R147 to R149, R151, R155). -/

namespace Sys2Proof.Laws

open Machine

/-- The entry that is offered: the next number and the present time (R143). -/
def offered (body : EntryBody) (s : State) : Entry := ⟨s.journal.next, s.now, body⟩

/-- The journal after an entry is offered: stored below 2048 entries, stored with the oldest discarded under WRAP, lost
under HOLD; the number is taken in every case (R143, R147 to R149). -/
def appended (body : EntryBody) (s : State) : Journal :=
  if s.journal.entries.length < Config.journalCap then
    ⟨s.journal.entries ++ [offered body s], s.journal.next + 1, s.journal.overflow⟩
  else if s.part.wrap then
    ⟨s.journal.entries.tail ++ [offered body s], s.journal.next + 1, bump s.journal.overflow⟩
  else ⟨s.journal.entries, s.journal.next + 1, bump s.journal.overflow⟩

/-- `t` is `s` with the journal `j`, the journal's two change flags perhaps set, and frames perhaps sent. -/
def Logs (j : Journal) (s t : State) : Prop :=
  ∃ high full, Sends
    { s with
      journal := j
      changes := { s.changes with
        journalHigh := s.changes.journalHigh || high, journalFull := s.changes.journalFull || full } } t

/-- Sending before the journal's conditions are updated comes to the same form. -/
theorem update_after_send {before s t : State} (h : Sends s t) :
    ∃ high full, Sends
      { s with changes := { s.changes with
          journalHigh := s.changes.journalHigh || high, journalFull := s.changes.journalFull || full } }
      (updateJournalConditions before t) := by
  obtain ⟨q, rfl, hq⟩ := h
  exact ⟨_, _, Sends.trans ⟨q, rfl, hq⟩ (updateJournalConditions_spec before _)⟩

/-- Everything the storing of an entry can do. -/
theorem storeEntry_spec (e : Entry) (entries : List Entry) (s : State) :
    Logs ⟨entries, s.journal.next, s.journal.overflow⟩ s (storeEntry e entries s) := by
  unfold storeEntry
  split
  · split
    · exact update_after_send (offerFrame_sends (noticeFrame e) _)
    · exact ⟨_, _, (updateJournalConditions_spec s _).trans (offerFrame_sends _ _)⟩
  · exact ⟨_, _, updateJournalConditions_spec s _⟩

/-- Everything an offered entry can do: the journal becomes `appended body s`; beyond that, only the journal's change
flags and the upward queue can change. -/
theorem offerEntry_spec (body : EntryBody) (s : State) : Logs (appended body s) s (offerEntry body s) := by
  unfold offerEntry appended
  split
  · obtain ⟨high, full, h⟩ := storeEntry_spec (offered body s) (s.journal.entries ++ [offered body s])
      { s with journal := { s.journal with next := s.journal.next + 1 } }
    exact ⟨high, full, h⟩
  · split
    · obtain ⟨high, full, h⟩ := storeEntry_spec (offered body s) (s.journal.entries.tail ++ [offered body s])
        { s with journal := { s.journal with next := s.journal.next + 1, overflow := bump s.journal.overflow } }
      exact ⟨high, full, h⟩
    · exact ⟨false, false, by simpa using Sends.refl _⟩

/-- An offered entry never makes the journal hold more than 2048 (R142). -/
theorem appended_length (body : EntryBody) (s : State) (h : s.journal.entries.length ≤ Config.journalCap) :
    (appended body s).entries.length ≤ Config.journalCap := by
  simp only [Config.journalCap] at h ⊢
  unfold appended
  split
  · next h1 => simp only [Config.journalCap] at h1; simp only [List.length_append, List.length_singleton]; omega
  · next h1 =>
    simp only [Config.journalCap] at h1
    split
    · simp only [List.length_append, List.length_tail, List.length_singleton]; omega
    · exact h

/-- The next entry number rises by one at every offer (R143). -/
@[simp] theorem appended_next (body : EntryBody) (s : State) : (appended body s).next = s.journal.next + 1 := by
  unfold appended
  split
  · rfl
  · split <;> rfl

section Frame

variable (body : EntryBody) (s : State)

/-- What an offered entry leaves alone, as one equation. -/
theorem offerEntry_form : ∃ c q, offerEntry body s =
    { s with journal := appended body s, changes := c, link := { s.link with upQueue := s.link.upQueue ++ q } } := by
  obtain ⟨high, full, q, h, -⟩ := offerEntry_spec body s
  exact ⟨_, q, h⟩

@[simp] theorem offerEntry_journal : (offerEntry body s).journal = appended body s := by
  obtain ⟨c, q, h⟩ := offerEntry_form body s; rw [h]
@[simp] theorem offerEntry_power : (offerEntry body s).power = s.power := by
  obtain ⟨c, q, h⟩ := offerEntry_form body s; rw [h]
@[simp] theorem offerEntry_clock : (offerEntry body s).clock = s.clock := by
  obtain ⟨c, q, h⟩ := offerEntry_form body s; rw [h]
@[simp] theorem offerEntry_shifts : (offerEntry body s).shifts = s.shifts := by
  obtain ⟨c, q, h⟩ := offerEntry_form body s; rw [h]
@[simp] theorem offerEntry_crews : (offerEntry body s).crews = s.crews := by
  obtain ⟨c, q, h⟩ := offerEntry_form body s; rw [h]
@[simp] theorem offerEntry_rates : (offerEntry body s).rates = s.rates := by
  obtain ⟨c, q, h⟩ := offerEntry_form body s; rw [h]
@[simp] theorem offerEntry_part : (offerEntry body s).part = s.part := by
  obtain ⟨c, q, h⟩ := offerEntry_form body s; rw [h]
@[simp] theorem offerEntry_workers : (offerEntry body s).workers = s.workers := by
  obtain ⟨c, q, h⟩ := offerEntry_form body s; rw [h]
@[simp] theorem offerEntry_insideCount : (offerEntry body s).insideCount = s.insideCount := by
  obtain ⟨c, q, h⟩ := offerEntry_form body s; rw [h]
@[simp] theorem offerEntry_badges : (offerEntry body s).badges = s.badges := by
  obtain ⟨c, q, h⟩ := offerEntry_form body s; rw [h]
@[simp] theorem offerEntry_laneTable : (offerEntry body s).laneTable = s.laneTable := by
  obtain ⟨c, q, h⟩ := offerEntry_form body s; rw [h]
@[simp] theorem offerEntry_lanes : (offerEntry body s).lanes = s.lanes := by
  obtain ⟨c, q, h⟩ := offerEntry_form body s; rw [h]
@[simp] theorem offerEntry_schedule : (offerEntry body s).schedule = s.schedule := by
  obtain ⟨c, q, h⟩ := offerEntry_form body s; rw [h]
@[simp] theorem offerEntry_patterns : (offerEntry body s).patterns = s.patterns := by
  obtain ⟨c, q, h⟩ := offerEntry_form body s; rw [h]
@[simp] theorem offerEntry_arbiters : (offerEntry body s).arbiters = s.arbiters := by
  obtain ⟨c, q, h⟩ := offerEntry_form body s; rw [h]
@[simp] theorem offerEntry_evac : (offerEntry body s).evac = s.evac := by
  obtain ⟨c, q, h⟩ := offerEntry_form body s; rw [h]
@[simp] theorem offerEntry_close : (offerEntry body s).close = s.close := by
  obtain ⟨c, q, h⟩ := offerEntry_form body s; rw [h]
@[simp] theorem offerEntry_holding : (offerEntry body s).holding = s.holding := by
  obtain ⟨c, q, h⟩ := offerEntry_form body s; rw [h]
@[simp] theorem offerEntry_pending : (offerEntry body s).pending = s.pending := by
  obtain ⟨c, q, h⟩ := offerEntry_form body s; rw [h]
@[simp] theorem offerEntry_requests : (offerEntry body s).link.requests = s.link.requests := by
  obtain ⟨c, q, h⟩ := offerEntry_form body s; rw [h]

end Frame

end Sys2Proof.Laws
end

