-- ==== Sys2Proof/Laws/Admission.lean ====
section
/-! SUPPORT. What the operations on worker records can do: presence, pairings, a close reaching a record, expiries and
commits change worker records, the inside count, the three counts of a close and the journal, and send frames. -/

namespace Sys2Proof.Laws

open Machine

/-- `t` is `s` after operations on worker records: only the worker table, the inside count, the close's three counts,
the journal, its change flags and the upward queue differ. Status, crew, rate class, flags, last punch and muster mark
of every record stand, the table stays canonical, the journal stays in its bound, and frames are sent by R193. -/
structure Pays (s t : State) : Prop where
  form : ∃ ws n j ch cl sk sp q, t =
    { s with
      workers := ws, insideCount := n, journal := j, changes := ch
      close := { s.close with closed := cl, skipped := sk, split := sp }
      link := { s.link with upQueue := s.link.upQueue ++ q } }
  queue : t.link.upQueue = s.link.upQueue ∨ t.link.upQueue.length ≤ 6
  journal : s.journal.entries.length ≤ Config.journalCap → t.journal.entries.length ≤ Config.journalCap
  canonical : Table.wf Worker.zeroed s.workers = true → Table.wf Worker.zeroed t.workers = true
  roll : Table.wf Worker.zeroed s.workers = true → t.unaccountedRecords = s.unaccountedRecords
  status : ∀ i, (t.worker i).status = (s.worker i).status
  muster : ∀ i, (t.worker i).muster = (s.worker i).muster

namespace Pays

variable {s t u : State}

theorem refl (s : State) : Pays s s where
  form := ⟨s.workers, s.insideCount, s.journal, s.changes, s.close.closed, s.close.skipped, s.close.split, [], by simp⟩
  queue := .inl rfl
  journal := id
  canonical := id
  roll _ := rfl
  status _ := rfl
  muster _ := rfl

theorem trans (h1 : Pays s t) (h2 : Pays t u) : Pays s u where
  form := by
    obtain ⟨_, _, _, _, _, _, _, q, rfl⟩ := h1.form
    obtain ⟨ws, n, j, ch, cl, sk, sp, p, rfl⟩ := h2.form
    exact ⟨ws, n, j, ch, cl, sk, sp, q ++ p, by simp⟩
  queue := by
    rcases h2.queue with h | h
    · rw [h]; exact h1.queue
    · exact .inr h
  journal h := h2.journal (h1.journal h)
  canonical h := h2.canonical (h1.canonical h)
  roll h := (h2.roll (h1.canonical h)).trans (h1.roll h)
  status i := (h2.status i).trans (h1.status i)
  muster i := (h2.muster i).trans (h1.muster i)

end Pays

/-- The number of records a test counts stands when one record is replaced by another with the same answer. -/
theorem unaccounted_setWorker {s : State} (hw : Table.wf Worker.zeroed s.workers = true) (i : Nat) (w : Worker) :
    (s.setWorker i w).unaccountedRecords + (if (s.worker i).muster = .unaccounted then 1 else 0) =
      s.unaccountedRecords + if w.muster = .unaccounted then 1 else 0 := by
  have := count_set (fun w : Worker => decide (w.muster = .unaccounted)) (by rfl) hw i w
  simp only [decide_eq_true_eq] at this
  exact this

theorem offerEntry_pays (body : EntryBody) (s : State) : Pays s (offerEntry body s) where
  form := by
    obtain ⟨c, q, h⟩ := offerEntry_form body s
    exact ⟨_, _, _, c, _, _, _, q, h⟩
  queue := by
    obtain ⟨_, _, q, h, hq⟩ := offerEntry_spec body s
    rw [h]
    rcases hq with rfl | hq
    · simp
    · exact .inr hq
  journal h := by rw [offerEntry_journal]; exact appended_length body s h
  canonical h := by rwa [offerEntry_workers]
  roll _ := by unfold State.unaccountedRecords; rw [offerEntry_workers]
  status i := by unfold State.worker; rw [offerEntry_workers]
  muster i := by unfold State.worker; rw [offerEntry_workers]

theorem setWorker_pays {s : State} {i : Nat} {w : Worker} (h1 : w.status = (s.worker i).status)
    (h2 : w.muster = (s.worker i).muster) : Pays s (s.setWorker i w) where
  form := ⟨(s.setWorker i w).workers, s.insideCount, s.journal, s.changes, s.close.closed, s.close.skipped,
    s.close.split, [], by simp [State.setWorker]⟩
  queue := .inl rfl
  journal := id
  canonical h := wf_set h i w
  roll h := by
    have := unaccounted_setWorker h i w
    rw [h2] at this; omega
  status j := by rw [setWorker_read]; split <;> simp_all
  muster j := by rw [setWorker_read]; split <;> simp_all

theorem setPresence_pays (i : Nat) (p : Presence) (s : State) : Pays s (setPresence i p s) := by
  have h : Pays s (s.setWorker i { s.worker i with presence := p }) := setWorker_pays rfl rfl
  exact ⟨⟨(s.setWorker i { s.worker i with presence := p }).workers, insideAfter s.insideCount (s.worker i).presence p,
    s.journal, s.changes, s.close.closed, s.close.skipped, s.close.split, [], by simp [setPresence, State.setWorker]⟩,
    h.queue, h.journal, h.canonical, h.roll,
    h.status, h.muster⟩

theorem makePairing_pays (i : Nat) (kind : PairKind) (raw : Nat) (p : Presence) (s : State) :
    Pays s (makePairing i kind raw p s) := by
  unfold makePairing
  simp only
  split
  · exact .refl s
  · exact (setWorker_pays (by rfl) (by rfl)).trans (offerEntry_pays _ _)

/-- The counts of a close are written. -/
theorem closeCounts_pays (s : State) (cl sk sp : Nat) :
    Pays s { s with close := { s.close with closed := cl, skipped := sk, split := sp } } :=
  ⟨⟨s.workers, s.insideCount, s.journal, s.changes, cl, sk, sp, [], by simp⟩, .inl rfl, id, id, fun _ => rfl, fun _ => rfl, fun _ => rfl⟩

theorem recordClose_pays (i : Nat) (p : Presence) (s : State) : Pays s (recordClose i p s) := by
  unfold recordClose
  extract_lets splits s1 w s2
  have h1 : Pays s s1 := by
    unfold s1
    split
    · exact makePairing_pays _ _ _ _ _
    · exact .refl s
  exact h1.trans ((setWorker_pays (by rfl) (by rfl)).trans (closeCounts_pays _ _ _ _))

theorem reachRecord_pays (i : Nat) (p : Presence) (s : State) : Pays s (reachRecord i p s) := by
  unfold reachRecord
  simp only
  split
  · exact .refl s
  split
  · exact .refl s
  split
  · exact setWorker_pays (by rfl) (by rfl)
  split
  · exact Pays.trans (setWorker_pays (i := i) (by rfl) (by rfl)) (closeCounts_pays _ _ _ _)
  · exact recordClose_pays i p s

theorem callPairing_pays (i : Nat) (kind : PairKind) (raw : Nat) (p : Presence) (s : State) :
    Pays s (callPairing i kind raw p s) := by
  unfold callPairing
  split
  · exact (reachRecord_pays i p s).trans (makePairing_pays _ _ _ _ _)
  · exact makePairing_pays _ _ _ _ _

theorem expire_pays (i : Nat) (s : State) : Pays s (expire i s) := by
  unfold expire
  split
  · exact .refl s
  · exact (callPairing_pays _ _ _ _ _).trans (setPresence_pays _ _ _)

theorem foldl_pays {β : Type} {f : State → β → State} (hf : ∀ s b, Pays s (f s b)) (l : List β) (s : State) :
    Pays s (l.foldl f s) := by
  induction l generalizing s with
  | nil => exact .refl s
  | cons b l ih => exact (hf s b).trans (ih (f s b))

theorem takeExpiries_pays (s : State) : Pays s (takeExpiries s) := by
  unfold takeExpiries
  split
  · exact foldl_pays (fun t i => expire_pays i t) _ s
  · exact .refl s

theorem commitPunch_pays (lane : Nat) (p : ReleasedPunch) (free : Bool) (s : State) :
    Pays s (commitPunch lane p free s) := by
  unfold commitPunch
  split
  · unfold commitIn
    simp only
    split
    · exact (setPresence_pays _ _ _).trans (offerEntry_pays _ _)
    · exact (setPresence_pays _ _ _).trans ((setWorker_pays (by rfl) (by rfl)).trans (offerEntry_pays _ _))
    · exact (setPresence_pays _ _ _).trans (offerEntry_pays _ _)
  · unfold commitOut
    simp only
    split
    · exact ((setPresence_pays _ _ _).trans (offerEntry_pays _ _)).trans (callPairing_pays _ _ _ _ _)
    · exact (setPresence_pays _ _ _).trans (offerEntry_pays _ _)

namespace Pays

variable {s t : State}

theorem power (h : Pays s t) : t.power = s.power := by obtain ⟨_, _, _, _, _, _, _, _, rfl⟩ := h.form; rfl
theorem clock (h : Pays s t) : t.clock = s.clock := by obtain ⟨_, _, _, _, _, _, _, _, rfl⟩ := h.form; rfl
theorem shifts (h : Pays s t) : t.shifts = s.shifts := by obtain ⟨_, _, _, _, _, _, _, _, rfl⟩ := h.form; rfl
theorem crews (h : Pays s t) : t.crews = s.crews := by obtain ⟨_, _, _, _, _, _, _, _, rfl⟩ := h.form; rfl
theorem rates (h : Pays s t) : t.rates = s.rates := by obtain ⟨_, _, _, _, _, _, _, _, rfl⟩ := h.form; rfl
theorem part (h : Pays s t) : t.part = s.part := by obtain ⟨_, _, _, _, _, _, _, _, rfl⟩ := h.form; rfl
theorem badges (h : Pays s t) : t.badges = s.badges := by obtain ⟨_, _, _, _, _, _, _, _, rfl⟩ := h.form; rfl
theorem laneTable (h : Pays s t) : t.laneTable = s.laneTable := by obtain ⟨_, _, _, _, _, _, _, _, rfl⟩ := h.form; rfl
theorem lanes (h : Pays s t) : t.lanes = s.lanes := by obtain ⟨_, _, _, _, _, _, _, _, rfl⟩ := h.form; rfl
theorem schedule (h : Pays s t) : t.schedule = s.schedule := by obtain ⟨_, _, _, _, _, _, _, _, rfl⟩ := h.form; rfl
theorem patterns (h : Pays s t) : t.patterns = s.patterns := by obtain ⟨_, _, _, _, _, _, _, _, rfl⟩ := h.form; rfl
theorem arbiters (h : Pays s t) : t.arbiters = s.arbiters := by obtain ⟨_, _, _, _, _, _, _, _, rfl⟩ := h.form; rfl
theorem evac (h : Pays s t) : t.evac = s.evac := by obtain ⟨_, _, _, _, _, _, _, _, rfl⟩ := h.form; rfl
theorem holding (h : Pays s t) : t.holding = s.holding := by obtain ⟨_, _, _, _, _, _, _, _, rfl⟩ := h.form; rfl
theorem pending (h : Pays s t) : t.pending = s.pending := by obtain ⟨_, _, _, _, _, _, _, _, rfl⟩ := h.form; rfl
theorem closePhase (h : Pays s t) : t.close.phase = s.close.phase := by
  obtain ⟨_, _, _, _, _, _, _, _, rfl⟩ := h.form; rfl
theorem closeGen (h : Pays s t) : t.close.gen = s.close.gen := by obtain ⟨_, _, _, _, _, _, _, _, rfl⟩ := h.form; rfl
theorem closeTime (h : Pays s t) : t.close.tClose = s.close.tClose := by
  obtain ⟨_, _, _, _, _, _, _, _, rfl⟩ := h.form; rfl
theorem gatherTimer (h : Pays s t) : t.close.gatherTimer = s.close.gatherTimer := by
  obtain ⟨_, _, _, _, _, _, _, _, rfl⟩ := h.form; rfl
theorem requests (h : Pays s t) : t.link.requests = s.link.requests := by
  obtain ⟨_, _, _, _, _, _, _, _, rfl⟩ := h.form; rfl
theorem upForward (h : Pays s t) : t.link.upForward = s.link.upForward := by
  obtain ⟨_, _, _, _, _, _, _, _, rfl⟩ := h.form; rfl
theorem downForward (h : Pays s t) : t.link.downForward = s.link.downForward := by
  obtain ⟨_, _, _, _, _, _, _, _, rfl⟩ := h.form; rfl
theorem upPartial (h : Pays s t) : t.link.upPartial = s.link.upPartial := by
  obtain ⟨_, _, _, _, _, _, _, _, rfl⟩ := h.form; rfl
theorem downPartial (h : Pays s t) : t.link.downPartial = s.link.downPartial := by
  obtain ⟨_, _, _, _, _, _, _, _, rfl⟩ := h.form; rfl
theorem lane (h : Pays s t) (n : Nat) : t.lane n = s.lane n := by unfold State.lane; rw [h.lanes]
theorem laneRecord (h : Pays s t) (n : Nat) : t.laneRecord n = s.laneRecord n := by
  unfold State.laneRecord; rw [h.laneTable]

end Pays

/-! ## The gross of a pairing (R112) -/

/-- A pairing that is not NEGATIVE: the difference, not below 0. -/
theorem grossOf_forward {rin rout : Int} {inTime rawOut : Nat} (h : inTime ≤ rawOut) :
    grossOf rin rout inTime rawOut = (rout - rin).toNat := by
  simp only [grossOf]
  split
  · next h0 => exact h0.symm
  · rw [if_neg (not_lt.2 h)]

/-- Of any pairing: 0, or the difference. -/
theorem grossOf_cases (rin rout : Int) (inTime rawOut : Nat) :
    grossOf rin rout inTime rawOut = 0 ∨ grossOf rin rout inTime rawOut = (rout - rin).toNat := by
  simp only [grossOf]
  repeat' split
  all_goals simp

/-- A pairing whose rounded times do not rise: 0. -/
theorem grossOf_crossed {rin rout : Int} {inTime rawOut : Nat} (h : rout ≤ rin) :
    grossOf rin rout inTime rawOut = 0 := by
  simp [grossOf, Int.toNat_of_nonpos (by omega : rout - rin ≤ 0)]

end Sys2Proof.Laws
end

