-- ==== Sys2Proof/Laws/Alerts.lean ====
section
/-! SUPPORT. Which ALERT frames each operation on conditions and change flags offers, in the words of the claims; and that
what an offered entry does depends on the journal, its flags, the clock, the PART record and the link's queue alone. -/

namespace Sys2Proof.Laws

open Machine

/-- Frames offered one after another enter the upward queue while it holds fewer than 6 (R193). -/
theorem offerFrames_eq (l : List UpFrame) (s : State) :
    l.foldl (fun t f => offerFrame f t) s =
      { s with link := { s.link with upQueue := s.link.upQueue ++ l.take (6 - s.link.upQueue.length) } } := by
  induction l generalizing s with
  | nil => simp
  | cons f l ih =>
    rw [List.foldl_cons, ih]
    unfold offerFrame
    by_cases h : s.link.upQueue.length < 6
    · obtain ⟨k, hk⟩ : ∃ k, 6 - s.link.upQueue.length = k + 1 := ⟨5 - s.link.upQueue.length, by omega⟩
      have h1 : 6 - (s.link.upQueue.length + 1) = k := by omega
      simp [h, hk, h1]
    · have h1 : 6 - s.link.upQueue.length = 0 := by omega
      simp [h, h1]

/-- Frames offered on the way from `s` to `t` and then to `u` are offered on the way from `s` to `u`. -/
theorem alerts_trans {s t u : State} {k l : List UpFrame} (h1 : Alerts s t k) (h2 : Alerts t u l) :
    Alerts s u (k ++ l) := by
  obtain ⟨m1, p1, e1⟩ := h1
  obtain ⟨m2, p2, e2⟩ := h2
  refine ⟨m1 ++ m2, p1.append p2, ?_⟩
  rw [e2, e1, List.take_append, List.append_assoc, List.length_append, List.length_take]
  rcases Nat.le_total (6 - s.link.upQueue.length) m1.length with h | h
  · rw [Nat.min_eq_left h, show 6 - (s.link.upQueue.length + (6 - s.link.upQueue.length)) = 0 by omega,
      show 6 - s.link.upQueue.length - m1.length = 0 by omega]
  · rw [Nat.min_eq_right h, Nat.sub_sub]

/-- One frame offered. -/
theorem offerFrame_alerts (f : UpFrame) (s : State) : Alerts s (offerFrame f s) [f] := by
  have h := offerFrames_eq [f] s
  rw [List.foldl_cons, List.foldl_nil] at h
  exact ⟨[f], .refl _, by rw [h]⟩

theorem insertAlert_perm (rank : Nat → Nat) (a : Alert) (l : List Alert) : (insertAlert rank a l).Perm (a :: l) := by
  induction l with
  | nil => exact .refl _
  | cons b l ih =>
    unfold insertAlert
    split
    · exact .refl _
    · exact (ih.cons b).trans (.swap a b l)

theorem sortAlerts_perm (rank : Nat → Nat) (l : List Alert) : (sortAlerts rank l).Perm l := by
  induction l with
  | nil => exact .refl _
  | cons a l ih => exact (insertAlert_perm rank a _).trans (ih.cons a)

/-- The frames of a list of alerts. -/
def alertFrames (s : State) (lane : Nat) (l : List Alert) : List UpFrame :=
  l.flatMap fun a => s.alertOf true a.condition.code lane a.state

/-- One alert is its frame, if it has one. -/
theorem offerAlert_eq (lane : Nat) (a : Alert) (s : State) :
    offerAlert lane a s = (s.alertOf true a.condition.code lane a.state).foldl (fun t f => offerFrame f t) s := by
  unfold offerAlert State.alertOf
  by_cases h : (s.link.alertMask.getLsbD a.condition.code && s.part.alertEnable) = true <;> simp [h, be8]

/-- The alerts of one action are their frames, in an order of the list. -/
theorem foldl_offerAlert_eq (lane : Nat) (l : List Alert) (s : State) :
    l.foldl (fun t a => offerAlert lane a t) s = (alertFrames s lane l).foldl (fun t f => offerFrame f t) s := by
  induction l generalizing s with
  | nil => rfl
  | cons a l ih =>
    have h : ∀ t : State, t.link.alertMask = s.link.alertMask → t.part = s.part →
        alertFrames t lane l = alertFrames s lane l := by
      intro t h1 h2; unfold alertFrames State.alertOf; rw [h1, h2]
    rw [List.foldl_cons, ih, h _ (by rw [offerAlert_eq, offerFrames_eq]) (by rw [offerAlert_eq, offerFrames_eq]),
      offerAlert_eq]
    simp [alertFrames, List.foldl_append]

/-- The alerts of one action (R78): their frames are offered. -/
theorem offerAlerts_alerts (lane : Nat) (l : List Alert) (s : State) :
    Alerts s (offerAlerts lane l s) (alertFrames s lane l) := by
  refine ⟨alertFrames s lane (sortAlerts (Config.alertRank s.clock.tickCount) l), ?_, ?_⟩
  · exact (sortAlerts_perm _ l).flatMap_right _
  · unfold offerAlerts; rw [foldl_offerAlert_eq, offerFrames_eq]

/-- A lane's conditions change: one frame for each change flag that goes from clear to set (R77, R78). -/
theorem setConditions_alerts (n : Nat) (new : LaneConditions) (s : State) :
    Alerts s (setConditions n new s)
      (s.alertOf (((s.lane n).conditions.lost ^^ new.lost) && !(s.lane n).changes.lost) 0 n (setClear new.lost)
        ++ s.alertOf (((s.lane n).conditions.forced ^^ new.forced) && !(s.lane n).changes.forced) 1 n
          (setClear new.forced)
        ++ s.alertOf (((s.lane n).conditions.held ^^ new.held) && !(s.lane n).changes.held) 2 n (setClear new.held)
        ++ s.alertOf (((s.lane n).conditions.tamper ^^ new.tamper) && !(s.lane n).changes.tamper) 3 n
          (setClear new.tamper)) := by
  have h := offerAlerts_alerts n (((s.lane n).conditions.diff new).alerts (s.lane n).changes new)
    (s.setLane n (flagged (s.lane n) new))
  have e : ∀ b (c : Condition) v, alertFrames (s.setLane n (flagged (s.lane n) new)) n
      (if b = true then [⟨c, v⟩] else []) = s.alertOf b c.code n v := by
    intro b c v; cases b
    · simp [alertFrames, State.alertOf]
    · simp [alertFrames, State.alertOf, State.setLane]
  have a : ∀ l k, alertFrames (s.setLane n (flagged (s.lane n) new)) n (l ++ k) =
      alertFrames (s.setLane n (flagged (s.lane n) new)) n l ++ alertFrames (s.setLane n (flagged (s.lane n) new)) n k :=
    fun l k => by simp [alertFrames]
  simp only [LaneConditions.alerts, a, e] at h
  exact h

/-- The journal's change flags are set: one frame for each that goes from clear to set (R151). -/
theorem flagJournal_alerts (high full : Bool) (s : State) :
    Alerts s (flagJournal high full s)
      (s.alertOf (high && !s.changes.journalHigh) 4 255 (setClear s.journalHigh)
        ++ s.alertOf (full && !s.changes.journalFull) 5 255 (setClear s.journalFull)) := by
  have h := offerAlerts_alerts noLane
    ((if high && !s.changes.journalHigh then [⟨.journalHigh, setClear s.journalHigh⟩] else [])
      ++ (if full && !s.changes.journalFull then [⟨.journalFull, setClear s.journalFull⟩] else []))
    { s with changes := { s.changes with
        journalHigh := s.changes.journalHigh || high, journalFull := s.changes.journalFull || full } }
  have e : alertFrames { s with changes := { s.changes with
        journalHigh := s.changes.journalHigh || high, journalFull := s.changes.journalFull || full } } noLane
      ((if high && !s.changes.journalHigh then [⟨.journalHigh, setClear s.journalHigh⟩] else [])
        ++ (if full && !s.changes.journalFull then [⟨.journalFull, setClear s.journalFull⟩] else [])) =
      s.alertOf (high && !s.changes.journalHigh) 4 255 (setClear s.journalHigh)
        ++ s.alertOf (full && !s.changes.journalFull) 5 255 (setClear s.journalFull) := by
    cases high && !s.changes.journalHigh <;> cases full && !s.changes.journalFull <;>
      simp [alertFrames, State.alertOf, Condition.code, noLane]
  rw [e] at h
  exact h

/-- The EVACUATING change flag is set: one frame when it was clear (R171). -/
theorem flagEvacuating_alerts (s : State) :
    Alerts s (flagEvacuating s) (s.alertOf (!s.changes.evacuating) 6 255 (setClear s.evac.evacuating)) := by
  unfold flagEvacuating
  refine ⟨_, .refl _, ?_⟩
  cases h : s.changes.evacuating
  · simp only [Bool.false_eq_true, ↓reduceIte, offerAlert_eq, offerFrames_eq]; rfl
  · simp [State.alertOf]

/-- The CLOSE_DONE change flag is set: one frame with the last result when it was clear (R136, R195). -/
theorem flagCloseDone_alerts (s : State) :
    Alerts s (flagCloseDone s) (s.alertOf (!s.changes.closeDone) 7 255 s.close.lastResult.code) := by
  unfold flagCloseDone
  refine ⟨_, .refl _, ?_⟩
  cases h : s.changes.closeDone
  · simp only [Bool.false_eq_true, ↓reduceIte, offerAlert_eq, offerFrames_eq]; rfl
  · simp [State.alertOf]

/-! ## What an offer depends on -/

/-- The alerts of one action, in closed form. -/
theorem offerAlerts_eq (lane : Nat) (l : List Alert) (s : State) :
    offerAlerts lane l s =
      { s with link := { s.link with upQueue := s.link.upQueue
          ++ (alertFrames s lane (sortAlerts (Config.alertRank s.clock.tickCount) l)).take (6 - s.link.upQueue.length) } } := by
  unfold offerAlerts; rw [foldl_offerAlert_eq, offerFrames_eq]

/-- `t` agrees with `s` in all that an offered entry reads or writes. -/
structure SameJournal (s t : State) : Prop where
  journal : t.journal = s.journal
  changes : t.changes = s.changes
  clock : t.clock = s.clock
  part : t.part = s.part
  mask : t.link.alertMask = s.link.alertMask
  queue : t.link.upQueue = s.link.upQueue

theorem alertFrames_same {s t : State} (hp : t.part = s.part) (hm : t.link.alertMask = s.link.alertMask) (lane : Nat)
    (l : List Alert) : alertFrames t lane l = alertFrames s lane l := by
  unfold alertFrames State.alertOf; rw [hp, hm]

/-- `t` with the journal, change flags and upward queue of `s`. -/
def withJournalOf (t s : State) : State :=
  { t with journal := s.journal, changes := s.changes, link := { t.link with upQueue := s.link.upQueue } }

theorem offerFrame_same {s t : State} (f : UpFrame) (h : SameJournal s t) :
    SameJournal (offerFrame f s) (offerFrame f t) := by
  unfold offerFrame
  rw [h.queue]
  split
  · exact ⟨h.journal, h.changes, h.clock, h.part, h.mask, rfl⟩
  · exact h

theorem flagJournal_same {s t : State} (high full : Bool) (h : SameJournal s t) :
    SameJournal (flagJournal high full s) (flagJournal high full t) := by
  have e1 : t.journalHigh = s.journalHigh := by unfold State.journalHigh; rw [h.part, h.journal]
  have e2 : t.journalFull = s.journalFull := by unfold State.journalFull; rw [h.journal]
  unfold flagJournal
  simp only [offerAlerts_eq, h.changes, e1, e2, h.clock, h.queue]
  exact ⟨h.journal, rfl, rfl, h.part, h.mask,
    congrArg (fun f => s.link.upQueue ++ f.take (6 - s.link.upQueue.length)) (alertFrames_same h.part h.mask _ _)⟩

theorem storeEntry_same {s t : State} (e : Entry) (l : List Entry) (h : SameJournal s t) :
    SameJournal (storeEntry e l s) (storeEntry e l t) := by
  have h1 : SameJournal { s with journal := { s.journal with entries := l } }
      { t with journal := { t.journal with entries := l } } :=
    ⟨by rw [h.journal], h.changes, h.clock, h.part, h.mask, h.queue⟩
  have up : ∀ {u v : State}, SameJournal u v → SameJournal (updateJournalConditions s u) (updateJournalConditions t v) := by
    intro u v k
    unfold updateJournalConditions
    have e1 : ∀ {a b : State}, SameJournal a b → b.journalHigh = a.journalHigh ∧ b.journalFull = a.journalFull := by
      intro a b k; unfold State.journalHigh State.journalFull; rw [k.part, k.journal]; exact ⟨rfl, rfl⟩
    rw [(e1 h).1, (e1 h).2, (e1 k).1, (e1 k).2]
    exact flagJournal_same _ _ k
  have hp : t.part.liveNotices = s.part.liveNotices := by rw [h.part]
  unfold storeEntry
  rw [hp]
  split
  · split
    · exact up (offerFrame_same _ h1)
    · exact offerFrame_same _ (up h1)
  · exact up h1

/-- What an offered entry does to the journal, its change flags and the upward queue depends on nothing but what
`SameJournal` names. -/
theorem offerEntry_same {s t : State} (body : EntryBody) (h : SameJournal s t) :
    SameJournal (offerEntry body s) (offerEntry body t) := by
  have hn : t.now = s.now := by unfold State.now; rw [h.clock]
  have hp : t.part.wrap = s.part.wrap := by rw [h.part]
  have hj : ∀ {j k : Journal}, j = k → SameJournal { s with journal := k } { t with journal := j } :=
    fun e => ⟨e, h.changes, h.clock, h.part, h.mask, h.queue⟩
  simp only [offerEntry, hn, hp]
  rw [h.journal]
  split
  · exact storeEntry_same _ _ (hj rfl)
  · split
    · exact storeEntry_same _ _ (hj rfl)
    · exact hj rfl

/-- An offer to a state that differs from `s` elsewhere than in what it reads or writes: the offer to `s`, with the
journal, its change flags and the upward queue carried over. -/
theorem offerEntry_eq {s t : State} (body : EntryBody) (h : SameJournal s t) :
    offerEntry body t = withJournalOf t (offerEntry body s) := by
  have k := offerEntry_same body h
  obtain ⟨c, q, e⟩ := offerEntry_form body t
  unfold withJournalOf
  rw [← k.journal, ← k.changes, ← k.queue, e]

end Sys2Proof.Laws
end

