-- ==== Sys2Proof/Laws/Bells.lean ====
section
/-! SUPPORT. What the operations over several bell outputs can do. -/

namespace Sys2Proof.Laws

open Machine

/-! ## Bell outputs -/

/-- Arbitration reads the patterns and the evacuation phase, and no arbiter but its own. -/
@[simp] theorem setArbiter_arbitrate (s : State) (i : Nat) (b a : Arbiter) (r : BellRequest) :
    (s.setArbiter i b).arbitrate a r = s.arbitrate a r := rfl

/-- A fold over outputs changes the arbiters alone. -/
theorem foldl_setArbiter_form (f : State → Nat → Arbiter) (l : List Nat) (s : State) :
    ∃ a, l.foldl (fun t o => t.setArbiter o (f t o)) s = { s with arbiters := a } := by
  induction l generalizing s with
  | nil => exact ⟨s.arbiters, rfl⟩
  | cons o l ih =>
    obtain ⟨a, h⟩ := ih (s.setArbiter o (f s o))
    exact ⟨a, h⟩

/-- A fold that gives each output a value that depends on that output's own arbiter at most. -/
theorem foldl_setArbiter_arbiter (f : State → Nat → Arbiter)
    (hf : ∀ s i a o, o ≠ i → f (s.setArbiter i a) o = f s o) (l : List Nat) (hl : l.Nodup) (s : State) (o : Nat) :
    (l.foldl (fun t k => t.setArbiter k (f t k)) s).arbiter o = if o ∈ l then f s o else s.arbiter o := by
  induction l generalizing s with
  | nil => rfl
  | cons k l ih =>
    obtain ⟨hk, hl⟩ := List.nodup_cons.1 hl
    simp only [List.foldl_cons, ih hl, setArbiter_read, List.mem_cons]
    by_cases ho : o = k
    · subst ho; simp [hk]
    · simp [ho, hf s k _ o ho]

theorem maskedOutputs_nodup (m : Byte) : (maskedOutputs m).Nodup := List.nodup_range.filter _

theorem mem_maskedOutputs {m : Byte} {o : Nat} : o ∈ maskedOutputs m ↔ o < 4 ∧ m.getLsbD o = true := by
  simp [maskedOutputs, bellOutputs]

/-- A request reaches the outputs of its mask, each by the arbitration of R163, and changes nothing else. -/
theorem ringOutputs_spec (m : Byte) (r : BellRequest) (s : State) :
    (∃ a, ringOutputs m r s = { s with arbiters := a })
      ∧ ∀ o, (ringOutputs m r s).arbiter o =
          if o < 4 ∧ m.getLsbD o = true then (s.arbitrate (s.arbiter o) r).1 else s.arbiter o := by
  refine ⟨foldl_setArbiter_form (fun t o => (t.arbitrate (t.arbiter o) r).1) _ s, fun o => ?_⟩
  have h := foldl_setArbiter_arbiter (fun t o => (t.arbitrate (t.arbiter o) r).1)
    (fun s i a o ho => by simp [setArbiter_read, ho]) _ (maskedOutputs_nodup m) s o
  simp only [mem_maskedOutputs] at h
  exact h

/-- The tone is at every output, and nothing else changes. -/
theorem soundTone_spec (s : State) :
    (∃ a, soundTone s = { s with arbiters := a })
      ∧ ∀ o, (soundTone s).arbiter o = if o < 4 then s.toneArbiter else s.arbiter o := by
  refine ⟨foldl_setArbiter_form (fun _ _ => s.toneArbiter) _ s, fun o => ?_⟩
  have h := foldl_setArbiter_arbiter (fun _ _ => s.toneArbiter) (fun _ _ _ _ _ => rfl) bellOutputs List.nodup_range s o
  simp only [bellOutputs, List.mem_range] at h
  exact h

/-- BELL SILENCE's fold gives each output of the mask the silenced arbiter, and changes nothing else. -/
theorem silence_spec (m : Byte) (b : Arbiter) (s : State) :
    (∃ a, (maskedOutputs m).foldl (fun t o => t.setArbiter o b) s = { s with arbiters := a })
      ∧ ∀ o, ((maskedOutputs m).foldl (fun t o => t.setArbiter o b) s).arbiter o =
          if o < 4 ∧ m.getLsbD o = true then b else s.arbiter o := by
  refine ⟨foldl_setArbiter_form (fun _ _ => b) _ s, fun o => ?_⟩
  have h := foldl_setArbiter_arbiter (fun _ _ => b) (fun _ _ _ _ _ => rfl) _ (maskedOutputs_nodup m) s o
  simp only [mem_maskedOutputs] at h
  exact h

end Sys2Proof.Laws
end

