-- ==== Sys2Proof/Laws/Requests.lean ====
section
/-! SUPPORT. What a request command can do (R191, R192): when it is taken, and every way in which it can end. -/

namespace Sys2Proof.Laws

open Machine

/-- The frames of a reply depend on the request's kind and tag alone. -/
theorem replyFrames_kind (r : Request) (code : ReplyCode) (n : Nat) (l : List (List Byte)) :
    replyFrames r code n l = replyFrames ⟨false, r.kind, r.tag, []⟩ code n l := by
  induction l generalizing n with
  | nil => rfl
  | cons d rest ih =>
    cases rest with
    | nil => rfl
    | cons e rest => simp only [replyFrames]; rw [ih]

/-- How a taken request ends, in the words of claims. -/
theorem finishRequest_eq (r : Request) (a : Answer) :
    finishRequest r a = a.state.replyUnless r.broadcast r.kind r.tag a.code a.data := by
  unfold finishRequest State.replyUnless queueReply State.reply
  rw [replyFrames_kind r]

/-- A request command that is ready is taken: its block acts on the state without the request, and the reply follows. -/
theorem takeRequest_ready {i : Instr} {r : Request} {s : State} (act : State → Answer) (h : Ready i s)
    (hr : encodeRequest i = some r) :
    takeRequest i act s =
      (act s.taken).state.replyUnless r.broadcast r.kind r.tag (act s.taken).code (act s.taken).data := by
  obtain ⟨hrun, hres, hbuf, r', hr', hq⟩ := h
  obtain rfl : r = r' := by rw [hr] at hr'; exact Option.some.inj hr'
  have take : ∀ s1 : State, s1.link.requests.head? = some r → mayTake r s1 = true →
      popRequest s1 = s.taken →
      (if s1.link.requests.head? = some r ∧ mayTake r s1 = true then finishRequest r (act (popRequest s1)) else s1) =
        (act s.taken).state.replyUnless r.broadcast r.kind r.tag (act s.taken).code (act s.taken).data := by
    intro s1 h1 h2 h3
    rw [if_pos ⟨h1, h2⟩, finishRequest_eq, h3]
  have hmay : ∀ s1 : State, s1.link.restart = s.link.restart → s1.link.upQueue = s.link.upQueue →
      mayTake r s1 = true := by
    intro s1 h1 h2
    simp only [mayTake, h1, hres, h2, Option.isNone_none, Bool.true_and, Bool.or_eq_true, decide_eq_true_eq]
    exact hq
  unfold takeRequest
  rw [hr]
  simp only [hrun, if_true]
  rcases hbuf with hbuf | hbuf
  · have hn : ¬ s.link.requests.head? = some r := by simp [hbuf]
    simp only [if_neg hn]
    have ho : offerRequest r s = { s with link := { s.link with requests := [r] } } := by
      unfold offerRequest; simp [hbuf]
    simp only [ho]
    exact take { s with link := { s.link with requests := [r] } } rfl (hmay _ rfl rfl) (by simp [popRequest, State.taken, hbuf])
  · rw [hr] at hbuf
    simp only [if_pos hbuf]
    exact take _ hbuf (hmay _ rfl rfl) rfl

/-- What a request command can do, in every case: nothing (no request, or a start), the request is offered and waits or
is dropped, or it is taken from the front of the buffer. -/
theorem takeRequest_cases (i : Instr) (act : State → Answer) (s : State) :
    takeRequest i act s = s
      ∨ ∃ r s1, encodeRequest i = some r ∧ s.running = true
          ∧ (s1 = s ∨ s1 = offerRequest r s)
          ∧ (takeRequest i act s = s1
              ∨ s1.link.requests.head? = some r ∧ mayTake r s1 = true
                  ∧ takeRequest i act s = finishRequest r (act (popRequest s1))) := by
  unfold takeRequest
  split
  · exact .inl rfl
  · next r hr =>
    split
    · next hrun =>
      have key : ∀ s1 : State,
          (if s1.link.requests.head? = some r ∧ mayTake r s1 = true then finishRequest r (act (popRequest s1)) else s1)
              = s1
            ∨ s1.link.requests.head? = some r ∧ mayTake r s1 = true
                ∧ (if s1.link.requests.head? = some r ∧ mayTake r s1 = true then finishRequest r (act (popRequest s1))
                    else s1) = finishRequest r (act (popRequest s1)) := by
        intro s1
        by_cases h : s1.link.requests.head? = some r ∧ mayTake r s1 = true
        · exact .inr ⟨h.1, h.2, if_pos h⟩
        · exact .inl (if_neg h)
      refine .inr ⟨r, if s.link.requests.head? = some r then s else offerRequest r s, hr, hrun, ?_, key _⟩
      by_cases h : s.link.requests.head? = some r
      · exact .inl (if_pos h)
      · exact .inr (if_neg h)
    · exact .inl rfl

/-- Reply data of up to 238 bytes makes one frame, marked as the last (R186, R192). -/
theorem reply_short (s : State) (kind tag : Byte) (code : ReplyCode) (data : List Byte) (h : data.length ≤ 238) :
    s.reply kind tag code data =
      { s with link := { s.link with
          upQueue := s.link.upQueue ++ [⟨kind, tag, BitVec.ofNat 8 code.code :: 128#8 :: data⟩] } } := by
  simp [State.reply, replyParts, h, replyFrames, be8]

section Taken

variable (s : State)

@[simp] theorem taken_running : s.taken.running = s.running := rfl
@[simp] theorem taken_power : s.taken.power = s.power := rfl
@[simp] theorem taken_clock : s.taken.clock = s.clock := rfl
@[simp] theorem taken_part : s.taken.part = s.part := rfl
@[simp] theorem taken_workers : s.taken.workers = s.workers := rfl
@[simp] theorem taken_worker (i : Nat) : s.taken.worker i = s.worker i := rfl
@[simp] theorem taken_lane (i : Nat) : s.taken.lane i = s.lane i := rfl
@[simp] theorem taken_arbiter (i : Nat) : s.taken.arbiter i = s.arbiter i := rfl
@[simp] theorem taken_pattern (i : Nat) : s.taken.pattern i = s.pattern i := rfl
@[simp] theorem taken_holdingEntry (i : Nat) : s.taken.holdingEntry i = s.holdingEntry i := rfl
@[simp] theorem taken_badges : s.taken.badges = s.badges := rfl
@[simp] theorem taken_lookup (c : Nat) : s.taken.lookup c = s.lookup c := rfl
@[simp] theorem taken_evac : s.taken.evac = s.evac := rfl
@[simp] theorem taken_close : s.taken.close = s.close := rfl
@[simp] theorem taken_journal : s.taken.journal = s.journal := rfl
@[simp] theorem taken_now : s.taken.now = s.now := rfl
@[simp] theorem taken_gatherTicks : s.taken.gatherTicks = s.gatherTicks := rfl
@[simp] theorem taken_upQueue : s.taken.link.upQueue = s.link.upQueue := rfl
@[simp] theorem taken_requests : s.taken.link.requests = s.link.requests.tail := rfl

end Taken

end Sys2Proof.Laws
end

