-- ==== Sys2Proof/Laws/Bounds.lean ====
section
/-! SUPPORT. What every shared operation leaves of the buffers: `Quiet s t` says that from `s` to `t` the request and
forwarding buffers and what the receivers hold stand, the upward queue stands or holds 6 frames or fewer, and the journal
and badge map stay within their capacities. -/

namespace Sys2Proof.Laws

open Machine

/-- The buffers after an operation that takes no request and receives no frame. -/
structure Quiet (s t : State) : Prop where
  requests : t.link.requests = s.link.requests
  upForward : t.link.upForward = s.link.upForward
  downForward : t.link.downForward = s.link.downForward
  badges : t.badges.length ≤ 8192 ∨ t.badges.length ≤ s.badges.length
  queue : t.link.upQueue = s.link.upQueue ∨ t.link.upQueue.length ≤ 6
  journal : s.journal.entries.length ≤ 2048 → t.journal.entries.length ≤ 2048
  upPartial : t.link.upPartial = s.link.upPartial
  downPartial : t.link.downPartial = s.link.downPartial

section

variable {s t u : State}

theorem Quiet.refl (s : State) : Quiet s s := ⟨rfl, rfl, rfl, .inr le_rfl, .inl rfl, id, rfl, rfl⟩

theorem Quiet.trans (h1 : Quiet s t) (h2 : Quiet t u) : Quiet s u where
  requests := h2.requests.trans h1.requests
  upForward := h2.upForward.trans h1.upForward
  downForward := h2.downForward.trans h1.downForward
  badges := by rcases h2.badges with h | h <;> rcases h1.badges with h' | h' <;> omega
  queue := by
    rcases h2.queue with h | h
    · rw [h]; exact h1.queue
    · exact .inr h
  journal := fun h => h2.journal (h1.journal h)
  upPartial := h2.upPartial.trans h1.upPartial
  downPartial := h2.downPartial.trans h1.downPartial

theorem Quiet.ofPays (h : Pays s t) : Quiet s t :=
  ⟨h.requests, h.upForward, h.downForward, .inr (by rw [h.badges]), h.queue, h.journal, h.upPartial, h.downPartial⟩

theorem Quiet.ofSends (h : Sends s t) : Quiet s t := by
  obtain ⟨q, rfl, hq⟩ := h
  refine ⟨rfl, rfl, rfl, .inr le_rfl, ?_, id, rfl, rfl⟩
  rcases hq with rfl | hq
  · simp
  · exact .inr hq

/-- An operation that leaves link, entries and badge map as they are. -/
theorem Quiet.same (h1 : t.link = s.link) (h2 : t.journal.entries = s.journal.entries) (h3 : t.badges = s.badges) :
    Quiet s t :=
  ⟨by rw [h1], by rw [h1], by rw [h1], .inr (by rw [h3]), .inl (by rw [h1]), by rw [h2]; exact id,
    by rw [h1], by rw [h1]⟩

end

theorem foldl_quiet {β : Type} {f : State → β → State} (hf : ∀ s b, Quiet s (f s b)) (l : List β) (s : State) :
    Quiet s (l.foldl f s) := by
  induction l generalizing s with
  | nil => exact .refl s
  | cons b l ih => exact (hf s b).trans (ih (f s b))

section

variable {s : State}

theorem setLane_quiet {i : Nat} {l : Lane} : Quiet s (s.setLane i l) := .same rfl rfl rfl

theorem setWorker_quiet {i : Nat} {w : Worker} : Quiet s (s.setWorker i w) := .same rfl rfl rfl

theorem setArbiter_quiet {i : Nat} {a : Arbiter} : Quiet s (s.setArbiter i a) := .same rfl rfl rfl

theorem offerEntry_quiet {b : EntryBody} : Quiet s (offerEntry b s) := .ofPays (offerEntry_pays _ _)

theorem setConditions_quiet {n : Nat} {c : LaneConditions} : Quiet s (setConditions n c s) :=
  setLane_quiet.trans (.ofSends (setConditions_spec _ _ _))

theorem updateJournalConditions_quiet {b : State} : Quiet s (updateJournalConditions b s) := by
  refine Quiet.trans ?_ (.ofSends (updateJournalConditions_spec _ _))
  exact .same rfl rfl rfl

theorem flagJournal_quiet {h f : Bool} : Quiet s (flagJournal h f s) := by
  refine Quiet.trans ?_ (.ofSends (flagJournal_spec _ _ _))
  exact .same rfl rfl rfl

theorem flagEvacuating_quiet : Quiet s (flagEvacuating s) := by
  refine Quiet.trans ?_ (.ofSends (flagEvacuating_spec _))
  exact .same rfl rfl rfl

theorem flagCloseDone_quiet : Quiet s (flagCloseDone s) := by
  refine Quiet.trans ?_ (.ofSends (flagCloseDone_spec _))
  exact .same rfl rfl rfl

theorem takeExpiries_quiet : Quiet s (takeExpiries s) := .ofPays (takeExpiries_pays s)

/-! ## Lanes -/

theorem endRelease_quiet {n : Nat} {x : LaneState} : Quiet s (endRelease n x s) := by
  unfold endRelease; simp only; split
  · exact setLane_quiet.trans offerEntry_quiet
  · exact setLane_quiet

theorem loseLane_quiet {n : Nat} : Quiet s (loseLane n s) := by
  unfold loseLane
  extract_lets left before s1 after s2
  have h1 : Quiet s s1 := by
    unfold s1
    clear_value left before
    cases left
    · exact setLane_quiet
    · exact setLane_quiet
    · exact endRelease_quiet
    · exact setLane_quiet
    · exact setLane_quiet
  exact h1.trans (setLane_quiet.trans setConditions_quiet)

theorem missedReply_quiet {n : Nat} : Quiet s (missedReply n s) := by
  unfold missedReply
  extract_lets a b c
  split
  · exact setLane_quiet
  · split
    · exact setLane_quiet.trans loseLane_quiet
    · exact setLane_quiet

theorem goodReply_quiet {n : Nat} : Quiet s (goodReply n s) := by
  unfold goodReply
  extract_lets a
  split
  · split
    · exact setLane_quiet.trans setConditions_quiet
    · exact setLane_quiet
  · exact setLane_quiet

theorem headEvent_quiet {n : Nat} {b : Bool} {act : State → State} (h : ∀ s, Quiet s (act s)) :
    Quiet s (headEvent n b act s) := by
  unfold headEvent; split
  · extract_lets s0 l1 s1
    split
    · exact setLane_quiet.trans goodReply_quiet
    · have h1 : Quiet s s1 := setLane_quiet.trans (setLane_quiet.trans goodReply_quiet)
      split
      · exact h1
      · exact h1.trans (h _)
  · exact .refl _

theorem refusePunch_quiet {n c : Nat} {k : HeadKey} {r : Reason} : Quiet s (refusePunch n c k r s) := by
  unfold refusePunch
  extract_lets s1 s2 l2
  have h1 : Quiet s s1 := by
    unfold s1; split
    · split
      · exact setWorker_quiet
      · exact .refl _
    · exact .refl _
  exact h1.trans (setLane_quiet.trans (setLane_quiet.trans offerEntry_quiet))

theorem musterPunch_quiet {n c : Nat} : Quiet s (musterPunch n c s).1 := by
  unfold musterPunch; split
  · exact offerEntry_quiet
  · simp only
    split
    · refine Quiet.trans ?_ offerEntry_quiet
      exact .same rfl rfl rfl
    · exact offerEntry_quiet

theorem evaluatePunch_quiet {n c : Nat} {k : HeadKey} : Quiet s (evaluatePunch n c k s) := by
  unfold evaluatePunch; split
  · extract_lets s1
    have h1 : Quiet s s1 := setWorker_quiet.trans setLane_quiet
    split
    · exact h1.trans (.ofPays (commitPunch_pays _ _ _ _))
    · exact h1.trans setLane_quiet
  · exact refusePunch_quiet
  · exact setLane_quiet
  · exact musterPunch_quiet.trans setLane_quiet

theorem punchTaken_quiet {n c : Nat} {k : HeadKey} : Quiet s (punchTaken n c k s) := by
  unfold punchTaken; split
  · exact evaluatePunch_quiet
  · split
    · exact evaluatePunch_quiet
    · exact setLane_quiet
  · exact setLane_quiet

theorem doorOpened_quiet {n : Nat} : Quiet s (doorOpened n s) := by
  unfold doorOpened; simp only; split
  · split
    · exact Quiet.trans setLane_quiet (.ofPays (commitPunch_pays _ _ _ _))
    · exact setLane_quiet
  · split
    · exact Quiet.trans setLane_quiet (Quiet.trans setConditions_quiet offerEntry_quiet)
    · exact setLane_quiet
  · exact .refl _

theorem doorClosed_quiet {n : Nat} : Quiet s (doorClosed n s) := by
  unfold doorClosed; simp only; split
  · exact setLane_quiet.trans setConditions_quiet
  · exact .refl _

theorem setMode_quiet {n : Nat} {m : LaneMode} : Quiet s (setMode n m s) := by
  unfold setMode; simp only; split
  · exact setLane_quiet.trans endRelease_quiet
  · split
    · exact setLane_quiet.trans setLane_quiet
    · exact setLane_quiet

/-! ## Bells and evacuation -/

theorem ringOutputs_quiet {m : Byte} {r : BellRequest} : Quiet s (ringOutputs m r s) :=
  foldl_quiet (fun _ _ => setArbiter_quiet) _ _

theorem soundTone_quiet : Quiet s (soundTone s) := foldl_quiet (fun _ _ => setArbiter_quiet) _ _

theorem fireBells_quiet {p n : Nat} : Quiet s (fireBells p n s) :=
  foldl_quiet
    (fun s t => foldl_quiet
      (fun s i => by
        unfold fireEntry; simp only; split
        · exact ringOutputs_quiet
        · exact .refl _) _ _) _ _

theorem suspendClose_quiet : Quiet s (suspendClose s) := by
  unfold suspendClose; split
  · exact .same rfl rfl rfl
  · exact .refl _

theorem resumeClose_quiet : Quiet s (resumeClose s) := by
  unfold resumeClose; split
  · exact .same rfl rfl rfl
  · exact .refl _

theorem evacuateLane_quiet {n : Nat} : Quiet s (evacuateLane s n) := by
  unfold evacuateLane; split
  · exact endRelease_quiet
  · exact .refl _

theorem restartHeld_quiet {n : Nat} : Quiet s (restartHeld s n) := by
  unfold restartHeld; split
  · exact setLane_quiet
  · exact .refl _

theorem buildRoll_quiet : Quiet s (buildRoll s) := .same rfl rfl rfl

theorem startEvacuation_quiet {c : Cause} : Quiet s (startEvacuation c s) := by
  unfold startEvacuation
  extract_lets control s1 s2 s3 s4
  have h1 : Quiet s s1 := .same rfl rfl rfl
  have h2 : Quiet s1 s2 := foldl_quiet (f := evacuateLane) (fun _ _ => evacuateLane_quiet) _ _
  have h3 : Quiet s2 s3 := buildRoll_quiet.trans soundTone_quiet
  have h4 : Quiet s3 s4 := suspendClose_quiet
  clear_value s1 s2 s3 s4
  exact h1.trans (h2.trans (h3.trans (h4.trans (offerEntry_quiet.trans flagEvacuating_quiet))))

theorem takeCause_quiet {c : Cause} : Quiet s (takeCause c s) := by
  unfold takeCause; split
  · exact .same rfl rfl rfl
  · exact startEvacuation_quiet

theorem takeChain_quiet : Quiet s (takeChain s) := by
  unfold takeChain; split
  · exact takeCause_quiet
  · exact .refl _

theorem idleBells_quiet : Quiet s (idleBells s) := .same rfl rfl rfl

theorem clearEvacuation_quiet : Quiet s (clearEvacuation s) := by
  unfold clearEvacuation
  extract_lets control s1 s2 s3 s4 s5
  have h2 : Quiet s s2 := .same rfl rfl rfl
  have h3 : Quiet s2 s3 := foldl_quiet (f := restartHeld) (fun _ _ => restartHeld_quiet) _ _
  have h4 : Quiet s3 s4 := idleBells_quiet.trans resumeClose_quiet
  have h5 : Quiet s4 s5 := takeExpiries_quiet
  clear_value s1 s2 s3 s4 s5
  exact h2.trans (h3.trans (h4.trans (h5.trans (offerEntry_quiet.trans flagEvacuating_quiet))))

end

/-! ## Replies -/

theorem replyFrames_length (r : Request) (code : ReplyCode) (l : List (List Byte)) (n : Nat) :
    (replyFrames r code n l).length = l.length := by
  induction l generalizing n with
  | nil => rfl
  | cons d l ih =>
    cases l with
    | nil => rfl
    | cons e l => simp only [replyFrames, List.length_cons] at *; rw [ih]

theorem replyParts_length_le (n : Nat) (d : List Byte) : (replyParts n d).length ≤ n + 1 := by
  induction n generalizing d with
  | zero => simp [replyParts]
  | succ n ih =>
    simp only [replyParts]; split
    · simp
    · simpa using ih _

end Sys2Proof.Laws
end

