-- ==== Sys2Proof/Laws/Bytes.lean ====
section
/-! SUPPORT. The fields of the wire and their bytes, one record of a run, and the badge map's insertion. -/

namespace Sys2Proof.Laws

open Machine

/-- Two bytes of a field read back as the field. -/
theorem half_be16 (h : Half) : half (BitVec.ofNat 8 (h.toNat / 256)) (BitVec.ofNat 8 h.toNat) = h := by
  apply BitVec.eq_of_toNat_eq
  have := h.isLt
  simp [half, nat16]; omega

/-- Four bytes of a field read back as the field. -/
theorem word_be32 (w : Word) :
    word (BitVec.ofNat 8 (w.toNat / 16777216)) (BitVec.ofNat 8 (w.toNat / 65536)) (BitVec.ofNat 8 (w.toNat / 256))
      (BitVec.ofNat 8 w.toNat) = w := by
  apply BitVec.eq_of_toNat_eq
  have := w.isLt
  simp [word, nat32]; omega

/-- A field's two bytes are the bytes it was read from. -/
theorem be16_half (a b : Byte) : be16 (half a b).toNat = [a, b] := by
  have := a.isLt
  have := b.isLt
  simp only [be16, half, nat16, BitVec.toNat_ofNat, List.cons.injEq, and_true]
  constructor <;> apply BitVec.eq_of_toNat_eq <;> simp <;> omega

/-- A field's four bytes are the bytes it was read from. -/
theorem be32_word (a b c d : Byte) : be32 (word a b c d).toNat = [a, b, c, d] := by
  have := a.isLt
  have := b.isLt
  have := c.isLt
  have := d.isLt
  simp only [be32, word, nat32, BitVec.toNat_ofNat, List.cons.injEq, and_true]
  refine ⟨?_, ?_, ?_, ?_⟩ <;> apply BitVec.eq_of_toNat_eq <;> simp <;> omega

/-- A number below 65,536 is what its two bytes hold. -/
theorem nat16_be16 {n : Nat} (h : n < 65536) : nat16 (BitVec.ofNat 8 (n / 256)) (BitVec.ofNat 8 n) = n := by
  simp [nat16]; omega

/-- What two bytes hold is below 65,536. -/
theorem nat16_lt (a b : Byte) : nat16 a b < 65536 := by
  have := a.isLt
  have := b.isLt
  unfold nat16; omega

/-- A yes/no byte above 1 lies outside its set. -/
theorem yesNo_none {b : Byte} (h : 1 < b.toNat) : yesNo b = none := by
  unfold yesNo; split <;> first | omega | rfl

/-- A yes/no byte of 0 or 1. -/
theorem yesNo_some {b : Byte} (h : b.toNat ≤ 1) : yesNo b = some (decide (b.toNat = 1)) := by
  have h' : b.toNat = 0 ∨ b.toNat = 1 := by omega
  rcases h' with h' | h' <;> simp [yesNo, h']

/-- A run of one record. -/
theorem readRun_one {α : Type} (read : List Byte → Option α) (n : Nat) (b : List Byte) (h : b.length = n) :
    readRun read n 1 b = (read b).map fun r => [r] := by
  simp only [readRun]
  rw [List.take_of_length_le (by omega)]
  cases read b <;> rfl

/-- A run of one index. -/
theorem runBytes_one (f : Nat → List Byte) (i : Nat) : runBytes f i 1 = f i := by
  simp [runBytes]

/-! ## Badge codes and the badge map (R50, R51) -/

theorem badCode_true {code : Word} (h : code = 0#32 ∨ code = 4294967295#32) : badCode code.toNat = true := by
  rcases h with rfl | rfl <;> rfl

theorem badCode_false {code : Word} (h0 : code ≠ 0#32) (h1 : code ≠ 4294967295#32) : badCode code.toNat = false := by
  have a : code.toNat ≠ 0 := fun h => h0 (BitVec.eq_of_toNat_eq h)
  have b : code.toNat ≠ 4294967295 := fun h => h1 (BitVec.eq_of_toNat_eq h)
  simp [badCode, a, b]

@[simp] theorem insertBadge_length (c w : Nat) (l : List (Nat × Nat)) : (insertBadge c w l).length = l.length + 1 := by
  induction l with
  | nil => rfl
  | cons e l ih => simp only [insertBadge]; split <;> simp [*]

theorem mem_insertBadge {c w : Nat} {l : List (Nat × Nat)} {e : Nat × Nat} :
    e ∈ insertBadge c w l ↔ e = (c, w) ∨ e ∈ l := by
  induction l with
  | nil => simp [insertBadge]
  | cons a l ih =>
    simp only [insertBadge]; split
    · simp
    · simp only [List.mem_cons, ih]; tauto

/-- The map finds the code just added. -/
theorem find_insertBadge (c w : Nat) (l : List (Nat × Nat)) (h : l.find? (fun e => decide (e.1 = c)) = none) :
    (insertBadge c w l).find? (fun e => decide (e.1 = c)) = some (c, w) := by
  induction l with
  | nil => simp [insertBadge]
  | cons e l ih =>
    rw [List.find?_cons] at h
    split at h
    · cases h
    · next he =>
      simp only [insertBadge]; split
      · simp
      · rw [List.find?_cons, he]; exact ih h

/-- Every other code is found as before. -/
theorem find_insertBadge_ne (c w d : Nat) (l : List (Nat × Nat)) (hd : d ≠ c) :
    (insertBadge c w l).find? (fun e => decide (e.1 = d)) = l.find? (fun e => decide (e.1 = d)) := by
  induction l with
  | nil => simp [insertBadge, Ne.symm hd]
  | cons e l ih =>
    simp only [insertBadge]; split
    · simp [Ne.symm hd]
    · simp only [List.find?_cons]; split <;> simp_all

/-- Codes keep rising when a code that is not in the map is added. -/
theorem insertBadge_rising (c w : Nat) (l : List (Nat × Nat)) (h : l.Pairwise fun a b => a.1 < b.1)
    (hn : ∀ e ∈ l, e.1 ≠ c) : (insertBadge c w l).Pairwise fun a b => a.1 < b.1 := by
  induction l with
  | nil => simp [insertBadge]
  | cons e l ih =>
    obtain ⟨h1, h2⟩ := List.pairwise_cons.1 h
    simp only [insertBadge]; split
    · next hc =>
      refine List.pairwise_cons.2 ⟨fun x hx => ?_, h⟩
      rcases List.mem_cons.1 hx with rfl | hx
      · exact hc
      · exact lt_trans hc (h1 x hx)
    · next hc =>
      refine List.pairwise_cons.2 ⟨fun x hx => ?_, ih h2 fun x hx => hn x (List.mem_cons_of_mem _ hx)⟩
      rcases mem_insertBadge.1 hx with rfl | hx
      · have := hn e (List.mem_cons_self ..)
        simp only; omega
      · exact h1 x hx

end Sys2Proof.Laws
end

