-- ==== Sys2Proof/Laws/Lanes.lean ====
section
/-! SUPPORT. What the operations on a lane can do: one equation for each that says which lane it writes and with what,
and that beyond it only the journal, its change flags and the upward queue can change. -/

namespace Sys2Proof.Laws

open Machine

section Conditions

variable (lane : Nat) (new : LaneConditions) (s : State)

/-- A lane's conditions are written with their change flags, and frames are sent (R77, R78). -/
theorem setConditions_form : ∃ q, setConditions lane new s =
    { s.setLane lane (flagged (s.lane lane) new) with link := { s.link with upQueue := s.link.upQueue ++ q } } := by
  obtain ⟨q, h, -⟩ := setConditions_spec lane new s
  exact ⟨q, h⟩

theorem setConditions_lane (k : Nat) :
    (setConditions lane new s).lane k = if k = lane then flagged (s.lane lane) new else s.lane k := by
  obtain ⟨q, h⟩ := setConditions_form lane new s
  rw [h]; exact setLane_read ..

@[simp] theorem setConditions_laneRecord (k : Nat) : (setConditions lane new s).laneRecord k = s.laneRecord k := by
  obtain ⟨q, h⟩ := setConditions_form lane new s; rw [h]; rfl
@[simp] theorem setConditions_workers : (setConditions lane new s).workers = s.workers := by
  obtain ⟨q, h⟩ := setConditions_form lane new s; rw [h]; rfl
@[simp] theorem setConditions_insideCount : (setConditions lane new s).insideCount = s.insideCount := by
  obtain ⟨q, h⟩ := setConditions_form lane new s; rw [h]; rfl
@[simp] theorem setConditions_journal : (setConditions lane new s).journal = s.journal := by
  obtain ⟨q, h⟩ := setConditions_form lane new s; rw [h]; rfl
@[simp] theorem setConditions_clock : (setConditions lane new s).clock = s.clock := by
  obtain ⟨q, h⟩ := setConditions_form lane new s; rw [h]; rfl
@[simp] theorem setConditions_part : (setConditions lane new s).part = s.part := by
  obtain ⟨q, h⟩ := setConditions_form lane new s; rw [h]; rfl
@[simp] theorem setConditions_evac : (setConditions lane new s).evac = s.evac := by
  obtain ⟨q, h⟩ := setConditions_form lane new s; rw [h]; rfl

@[simp] theorem diff_self (a : LaneConditions) : a.diff a = LaneConditions.clear := by
  simp [LaneConditions.diff, LaneConditions.clear]

@[simp] theorem union_clear (a : LaneConditions) : a.union LaneConditions.clear = a := by
  simp [LaneConditions.union, LaneConditions.clear]

@[simp] theorem flagged_self (l : Lane) : flagged l l.conditions = l := by
  simp [flagged]

end Conditions

section Release

variable (lane : Nat) (next : LaneState) (s : State)

/-- The lane that a release leaves when it ends. -/
def released (l : Lane) (next : LaneState) : Lane := { l with state := next, releaseTimer := none, punch := none }

/-- A release without a punch ends: the lane alone changes. -/
theorem endRelease_none (h : (s.lane lane).punch = none) :
    endRelease lane next s = s.setLane lane (released (s.lane lane) next) := by
  unfold endRelease; simp [h, released]

/-- A release with a punch ends: the lane changes and the punch is given up as UNUSED (R96). -/
theorem endRelease_some {p : ReleasedPunch} (h : (s.lane lane).punch = some p) :
    endRelease lane next s = punchUnused lane p (s.setLane lane (released (s.lane lane) next)) := by
  unfold endRelease; simp [h, released]

/-- Everything that ending a release can do. -/
theorem endRelease_pays : Pays (s.setLane lane (released (s.lane lane) next)) (endRelease lane next s) := by
  cases h : (s.lane lane).punch with
  | none => rw [endRelease_none lane next s h]; exact .refl _
  | some p => rw [endRelease_some lane next s h]; exact offerEntry_pays _ _

theorem endRelease_lane (k : Nat) :
    (endRelease lane next s).lane k = if k = lane then released (s.lane lane) next else s.lane k := by
  rw [(endRelease_pays lane next s).lane]; exact setLane_read ..

@[simp] theorem endRelease_laneRecord (k : Nat) : (endRelease lane next s).laneRecord k = s.laneRecord k := by
  rw [(endRelease_pays lane next s).laneRecord]; rfl
@[simp] theorem endRelease_evac : (endRelease lane next s).evac = s.evac := by
  rw [(endRelease_pays lane next s).evac]; rfl
@[simp] theorem endRelease_clock : (endRelease lane next s).clock = s.clock := by
  rw [(endRelease_pays lane next s).clock]; rfl
@[simp] theorem endRelease_part : (endRelease lane next s).part = s.part := by
  rw [(endRelease_pays lane next s).part]; rfl
@[simp] theorem endRelease_workers : (endRelease lane next s).workers = s.workers := by
  cases h : (s.lane lane).punch with
  | none => rw [endRelease_none lane next s h]; rfl
  | some p => rw [endRelease_some lane next s h]; simp [punchUnused]
@[simp] theorem endRelease_insideCount : (endRelease lane next s).insideCount = s.insideCount := by
  cases h : (s.lane lane).punch with
  | none => rw [endRelease_none lane next s h]; rfl
  | some p => rw [endRelease_some lane next s h]; simp [punchUnused]

/-- The entry of a punch given up, in the words of claims. -/
theorem punchBody_unused (n : Nat) (p : ReleasedPunch) : punchBody n p .unused (softFlags p.soft) = unusedEntry n p := by
  obtain ⟨_, _, _, v, _, soft⟩ := p
  cases v <;> rcases soft with _ | _ | _ <;> rfl

/-- Giving up a punch changes the journal, its change flags and the upward queue alone. -/
theorem gaveUp_form (n : Nat) : ∃ j c q, s.gaveUp n =
    { s with journal := j, changes := c, link := { s.link with upQueue := q } } := by
  unfold State.gaveUp
  split
  · obtain ⟨c, q, h⟩ := offerEntry_form (unusedEntry n _) s; exact ⟨_, _, _, h⟩
  · exact ⟨_, _, _, rfl⟩

/-- A release ends: the lane changes, and what the journal, its flags and the queue become is what giving up the punch in
any state makes of them that agrees in these and in the punch. -/
theorem endRelease_gaveUp {t : State} (h : SameJournal s t) (hp : (t.lane lane).punch = (s.lane lane).punch) :
    endRelease lane next t =
      withJournalOf (t.setLane lane (released (t.lane lane) next)) (s.gaveUp lane) := by
  unfold State.gaveUp
  cases hq : (s.lane lane).punch with
  | none =>
    rw [endRelease_none _ _ _ (hp.trans hq), withJournalOf, ← h.journal, ← h.changes, ← h.queue]; rfl
  | some p =>
    rw [endRelease_some _ _ _ (hp.trans hq), punchUnused, punchBody_unused]
    exact offerEntry_eq (s := s) _ ⟨h.1, h.2, h.3, h.4, h.5, h.6⟩

end Release

section Exchange

variable (lane : Nat) (s : State)

/-- The lane that the end of an exchange leaves (R60). -/
def exchanged (interval : Nat) (l : Lane) : Lane := { l with replyWindow := none, pollTimer := some interval }

theorem endExchange_eq : endExchange lane s = s.setLane lane (exchanged s.part.pollInterval (s.lane lane)) := rfl

/-- A good reply outside LOST (R63). -/
theorem goodReply_other (h : (s.lane lane).state ≠ .lost) :
    goodReply lane s = s.setLane lane { s.lane lane with missed := 0 } := by
  unfold goodReply; simp [h]

/-- A good reply in LOST that is not yet the second (R64). -/
theorem goodReply_first (h : (s.lane lane).state = .lost) (hg : (s.lane lane).good = 0) :
    goodReply lane s = s.setLane lane { s.lane lane with missed := 0, good := 1 } := by
  unfold goodReply; simp [h, hg]

/-- The good reply that recovers a LOST lane (R64). -/
theorem goodReply_recovers (h : (s.lane lane).state = .lost) (hg : 1 ≤ (s.lane lane).good) :
    goodReply lane s =
      setConditions lane { (s.lane lane).conditions with lost := false }
        (s.setLane lane { s.lane lane with state := .idle, missed := 0, good := 0, lastBit := none }) := by
  unfold goodReply
  have : 2 ≤ (s.lane lane).good + 1 := by omega
  simp [h, this]

/-- Writing a lane twice writes it once. -/
theorem setLane_setLane (i : Nat) (a b : Lane) (h : Table.wf Lane.cold s.lanes = true) :
    (s.setLane i a).setLane i b = s.setLane i b := by
  have : (s.setLane i a).setLane i b
      = { s with lanes := Table.set Lane.cold (Table.set Lane.cold s.lanes i a) i b } := rfl
  rw [this]
  have e : Table.set Lane.cold (Table.set Lane.cold s.lanes i a) i b = Table.set Lane.cold s.lanes i b := by
    refine table_ext (wf_set (wf_set h i a) i b) (wf_set h i b) fun j => ?_
    simp only [get_set]; split <;> rfl
  rw [e]; rfl

end Exchange

end Sys2Proof.Laws
end

