-- ==== Sys2Proof/WellFormed.lean ====
section
/-! DEFINITION. Well-formed commands: a lane event names one of the 16 lanes, a segment end names one of the 4 bell
outputs, and an UNKNOWN_REQUEST holds a request that no other row takes (R192). A request field may hold every value of
its width, since the server can send it. Bytes on a port may be any bytes. -/

namespace Sys2Proof

/-- The lane a lane event names, where it names one. -/
def Instr.eventLane : Instr → Option Nat
  | .pollTimerExpiry l | .headEmpty l | .headPunch l _ _ _ | .headDoorOpen l _ | .headDoorClosed l _
  | .headTamperOn l _ | .headTamperOff l _ | .laneReplyBad l | .laneReplyMissed l | .releaseTimerExpiry l
  | .heldTimerExpiry l => some l
  | _ => none

/-- The well-formedness of a command. -/
def Instr.wf (i : Instr) : Bool :=
  match i with
  | .segmentEnd o => decide (o < 4)
  | .unknownRequest r => decide (decodeRequest r = .unknownRequest r)
  | _ => match i.eventLane with
    | some l => decide (l < 16)
    | none => true

end Sys2Proof
end

