-- ==== Sys2Proof/Laws/PerInstr.lean ====
section
/-! SUPPORT. The per-command family `RequestCodec`: what every command's syntax says of the request it lays out. -/

namespace Sys2Proof.Laws.RequestCodec

open Machine

/-- A command that lays out a request names no lane event and is no head's reply, and only a request of the four
broadcast kinds, or one that no row takes, comes to address 31. -/
def Statement (i : Instr) : Prop :=
  ∀ r, encodeRequest i = some r →
    i.eventLane = none ∧ encodeReply i = none
      ∧ (r.broadcast = true → broadcastKind r.kind = true ∨ i = .unknownRequest r)

/-- A command that lays out no request meets the statement. -/
theorem of_none {i : Instr} (h : encodeRequest i = none) : Statement i := fun r hr => by rw [h] at hr; cases hr

/-- An addressed request of a row that is neither a lane event nor a reply meets the statement. -/
theorem of_addressed {i : Instr} {r : Request} (h : encodeRequest i = some r) (hb : r.broadcast = false)
    (he : i.eventLane = none) (hp : encodeReply i = none) : Statement i := by
  intro q hq
  obtain rfl := Option.some.inj (h.symm.trans hq)
  exact ⟨he, hp, fun hc => by rw [hb] at hc; cases hc⟩

/-- A request of a broadcast kind meets the statement. -/
theorem of_broadcast {i : Instr} {r : Request} (h : encodeRequest i = some r) (hb : broadcastKind r.kind = true)
    (he : i.eventLane = none) (hp : encodeReply i = none) : Statement i := by
  intro q hq
  obtain rfl := Option.some.inj (h.symm.trans hq)
  exact ⟨he, hp, fun _ => .inl hb⟩

theorem describe (tag : Byte) : Statement (.describe tag) := of_addressed rfl rfl rfl rfl

theorem statusRead (tag clear : Byte) : Statement (.statusRead tag clear) := of_addressed rfl rfl rfl rfl

theorem alertMask (tag mask enable : Byte) : Statement (.alertMask tag mask enable) := of_addressed rfl rfl rfl rfl

theorem tableWrite (tag table first count : Byte) (records : List Byte) : Statement (.tableWrite tag table first count records) :=
  of_addressed rfl rfl rfl rfl

theorem tableRead (tag table first count : Byte) : Statement (.tableRead tag table first count) :=
  of_addressed rfl rfl rfl rfl

theorem restart (tag : Byte) : Statement (.restart tag) := of_addressed rfl rfl rfl rfl

theorem timeSet (broadcast : Bool) (tag : Byte) (time : Word) (offset : Byte) : Statement (.timeSet broadcast tag time offset) :=
  of_broadcast rfl rfl rfl rfl

theorem timeSlew (broadcast : Bool) (tag : Byte) (amount : Half) : Statement (.timeSlew broadcast tag amount) :=
  of_broadcast rfl rfl rfl rfl

theorem timeRead (tag : Byte) : Statement (.timeRead tag) := of_addressed rfl rfl rfl rfl

theorem workerSet (tag : Byte) (index : Half) (status crew rateClass flags : Byte) : Statement (.workerSet tag index status crew rateClass flags) :=
  of_addressed rfl rfl rfl rfl

theorem workerFree (tag : Byte) (index : Half) : Statement (.workerFree tag index) := of_addressed rfl rfl rfl rfl

theorem presenceSet (tag : Byte) (index : Half) (presence : Byte) : Statement (.presenceSet tag index presence) :=
  of_addressed rfl rfl rfl rfl

theorem workerRead (tag : Byte) (first : Half) (count : Byte) : Statement (.workerRead tag first count) :=
  of_addressed rfl rfl rfl rfl

theorem badgeAdd (tag : Byte) (code : Word) (index : Half) : Statement (.badgeAdd tag code index) :=
  of_addressed rfl rfl rfl rfl

theorem badgeRemove (tag : Byte) (code : Word) : Statement (.badgeRemove tag code) := of_addressed rfl rfl rfl rfl

theorem badgeFind (tag : Byte) (code : Word) : Statement (.badgeFind tag code) := of_addressed rfl rfl rfl rfl

theorem badgeRead (tag : Byte) (first : Half) (count : Byte) : Statement (.badgeRead tag first count) :=
  of_addressed rfl rfl rfl rfl

theorem laneCommandNormal (tag lane : Byte) : Statement (.laneCommandNormal tag lane) := of_addressed rfl rfl rfl rfl

theorem laneCommandLocked (tag lane : Byte) : Statement (.laneCommandLocked tag lane) := of_addressed rfl rfl rfl rfl

theorem laneCommandUnlocked (tag lane : Byte) : Statement (.laneCommandUnlocked tag lane) :=
  of_addressed rfl rfl rfl rfl

theorem laneCommandPulse (tag lane : Byte) : Statement (.laneCommandPulse tag lane) := of_addressed rfl rfl rfl rfl

theorem laneCountersLatch (tag selector : Byte) : Statement (.laneCountersLatch tag selector) :=
  of_addressed rfl rfl rfl rfl

theorem laneCountersRead (tag selector : Byte) : Statement (.laneCountersRead tag selector) :=
  of_addressed rfl rfl rfl rfl

theorem laneCountersReset (tag selector : Byte) : Statement (.laneCountersReset tag selector) :=
  of_addressed rfl rfl rfl rfl

theorem totalsLatch (tag : Byte) (selector : Half) : Statement (.totalsLatch tag selector) :=
  of_addressed rfl rfl rfl rfl

theorem totalsRead (tag : Byte) (first : Half) (count : Byte) : Statement (.totalsRead tag first count) :=
  of_addressed rfl rfl rfl rfl

theorem closedRead (tag : Byte) (first : Half) (count : Byte) : Statement (.closedRead tag first count) :=
  of_addressed rfl rfl rfl rfl

theorem periodClose (tag : Byte) (crews : Half) : Statement (.periodClose tag crews) := of_addressed rfl rfl rfl rfl

theorem closeCancel (tag : Byte) : Statement (.closeCancel tag) := of_addressed rfl rfl rfl rfl

theorem closeStatus (tag : Byte) : Statement (.closeStatus tag) := of_addressed rfl rfl rfl rfl

theorem journalRead (tag count : Byte) : Statement (.journalRead tag count) := of_addressed rfl rfl rfl rfl

theorem journalTrim (tag : Byte) (count : Half) : Statement (.journalTrim tag count) := of_addressed rfl rfl rfl rfl

theorem journalStatus (tag clear : Byte) : Statement (.journalStatus tag clear) := of_addressed rfl rfl rfl rfl

theorem bellRing (broadcast : Bool) (tag outputs pattern priority : Byte) : Statement (.bellRing broadcast tag outputs pattern priority) :=
  of_broadcast rfl rfl rfl rfl

theorem bellSilence (tag outputs : Byte) : Statement (.bellSilence tag outputs) := of_addressed rfl rfl rfl rfl

theorem bellStatus (tag : Byte) : Statement (.bellStatus tag) := of_addressed rfl rfl rfl rfl

theorem evacuate (broadcast : Bool) (tag : Byte) : Statement (.evacuate broadcast tag) := of_broadcast rfl rfl rfl rfl

theorem evacuationClear (tag : Byte) : Statement (.evacuationClear tag) := of_addressed rfl rfl rfl rfl

theorem musterRead (tag : Byte) (first : Half) (count : Byte) : Statement (.musterRead tag first count) :=
  of_addressed rfl rfl rfl rfl

theorem musterList (tag : Byte) (start : Half) : Statement (.musterList tag start) := of_addressed rfl rfl rfl rfl

theorem unknownRequest (request : Request) : Statement (.unknownRequest request) := by
  intro r h
  simp only [encodeRequest] at h
  split at h
  · obtain rfl := Option.some.inj h
    exact ⟨rfl, rfl, fun _ => .inr rfl⟩
  · cases h

theorem downwardFrameReceived (bytes : List Byte) : Statement (.downwardFrameReceived bytes) := of_none rfl

theorem upwardFrameReceived (bytes : List Byte) : Statement (.upwardFrameReceived bytes) := of_none rfl

theorem downwardForwardSend : Statement .downwardForwardSend := of_none rfl

theorem upwardTransmit : Statement .upwardTransmit := of_none rfl

theorem restartReplySent : Statement .restartReplySent := of_none rfl

theorem tick100ms (fire chain : Bool) : Statement (.tick100ms fire chain) := of_none rfl

theorem secondTick : Statement .secondTick := of_none rfl

theorem segmentEnd (output : Nat) : Statement (.segmentEnd output) := of_none rfl

theorem pollTimerExpiry (lane : Nat) : Statement (.pollTimerExpiry lane) := of_none rfl

theorem headEmpty (lane : Nat) : Statement (.headEmpty lane) := of_none rfl

theorem headPunch (lane : Nat) (bit : Bool) (code : Word) (key : HeadKey) : Statement (.headPunch lane bit code key) :=
  of_none rfl

theorem headDoorOpen (lane : Nat) (bit : Bool) : Statement (.headDoorOpen lane bit) := of_none rfl

theorem headDoorClosed (lane : Nat) (bit : Bool) : Statement (.headDoorClosed lane bit) := of_none rfl

theorem headTamperOn (lane : Nat) (bit : Bool) : Statement (.headTamperOn lane bit) := of_none rfl

theorem headTamperOff (lane : Nat) (bit : Bool) : Statement (.headTamperOff lane bit) := of_none rfl

theorem laneReplyBad (lane : Nat) : Statement (.laneReplyBad lane) := of_none rfl

theorem laneReplyMissed (lane : Nat) : Statement (.laneReplyMissed lane) := of_none rfl

theorem releaseTimerExpiry (lane : Nat) : Statement (.releaseTimerExpiry lane) := of_none rfl

theorem heldTimerExpiry (lane : Nat) : Statement (.heldTimerExpiry lane) := of_none rfl

theorem gatherTimerExpiry : Statement .gatherTimerExpiry := of_none rfl

theorem walkStep : Statement .walkStep := of_none rfl

theorem fireActive : Statement .fireActive := of_none rfl

theorem fireInactive : Statement .fireInactive := of_none rfl

theorem chainLevelActive : Statement .chainLevelActive := of_none rfl

theorem chainLevelInactive : Statement .chainLevelInactive := of_none rfl

theorem powerUp : Statement .powerUp := of_none rfl

theorem mainPowerLost : Statement .mainPowerLost := of_none rfl

theorem resetInputActive : Statement .resetInputActive := of_none rfl

theorem startComplete (fire chain : Bool) (strap : BitVec 5) : Statement (.startComplete fire chain strap) :=
  of_none rfl

theorem retainedDomainLost : Statement .retainedDomainLost := of_none rfl

end Sys2Proof.Laws.RequestCodec
end

