-- ==== Sys2Proof/Laws/Receive.lean ====
section
/-! SUPPORT. What a receiver does with the bytes of a frame (R187): it holds a frame that is not whole, and answers the
frame at its last byte. -/

namespace Sys2Proof.Laws

open Machine

variable {s t : State}

/-- A byte other than the marker is passed over between frames. -/
theorem receiveByte_skip {b : Byte} (h : b ≠ 165#8) : receiveByte [] b = ([], none) := by
  simp [receiveByte, marker, h]

/-- A marker begins a frame. -/
theorem receiveByte_marker : receiveByte [] 165#8 = ([165#8], none) := rfl

/-- A byte before the length byte is held. -/
theorem receiveByte_header {held : List Byte} {b : Byte} (h0 : held ≠ []) (h : held.length < 5) :
    receiveByte held b = (held ++ [b], none) := by
  obtain ⟨a, rest, rfl⟩ := List.exists_cons_of_ne_nil h0
  have : (a :: rest ++ [b])[5]? = none := List.getElem?_eq_none (by simp at h ⊢; omega)
  simp only [receiveByte, this]

/-- From the length byte on, what the receiver does is settled by the bytes held with this one. -/
theorem receiveByte_body {held : List Byte} {b l : Byte} (h0 : held ≠ []) (hl : (held ++ [b])[5]? = some l) :
    receiveByte held b =
      if 240 < l.toNat then ([], some none)
      else if (held ++ [b]).length < l.toNat + 8 then (held ++ [b], none)
      else ([], some (frameOf (held ++ [b]))) := by
  obtain ⟨a, rest, rfl⟩ := List.exists_cons_of_ne_nil h0
  simp only [receiveByte, hl]

/-- A bound on what a receiver holds: a frame that is not whole, shorter than 248 bytes. -/
theorem receiveByte_length {held : List Byte} {b : Byte} (h : held.length ≤ 247) :
    (receiveByte held b).1.length ≤ 247 := by
  unfold receiveByte
  split
  · split <;> simp
  · dsimp only
    split
    · next hn =>
      have := List.getElem?_eq_none_iff.1 hn
      simp only [List.length_append, List.length_cons, List.length_nil] at this ⊢
      omega
    · split
      · simp
      · split
        · simp only [List.length_append, List.length_cons, List.length_nil] at *
          omega
        · simp

/-- Bytes that arrive one after another on the upward port act as when they arrive together. -/
theorem downwardByte_append (l m : List Byte) : (l ++ m).foldl downwardByte s = m.foldl downwardByte (l.foldl downwardByte s) :=
  List.foldl_append ..

/-- The same on the downward port. -/
theorem upwardByte_append (l m : List Byte) : (l ++ m).foldl upwardByte s = m.foldl upwardByte (l.foldl upwardByte s) :=
  List.foldl_append ..

/-- A byte on the upward port changes the Chain Port alone. -/
theorem downwardByte_form (b : Byte) : ∃ link, downwardByte s b = { s with link := link } := by
  simp only [downwardByte, downwardArrival, goodDownward, forwardDown, offerRequest, frameError, forwardDrop]
  repeat' split
  all_goals exact ⟨_, rfl⟩

/-- A byte on the downward port changes the Chain Port alone. -/
theorem upwardByte_form (b : Byte) : ∃ link, upwardByte s b = { s with link := link } := by
  simp only [upwardByte, upwardArrival, forwardUp, frameError, forwardDrop]
  repeat' split
  all_goals exact ⟨_, rfl⟩

/-- So do all bytes of a command on the upward port. -/
theorem downwardReceived_form (l : List Byte) : ∃ link, downwardReceived l s = { s with link := link } := by
  unfold downwardReceived; split
  · induction l generalizing s with
    | nil => exact ⟨s.link, rfl⟩
    | cons b l ih =>
      obtain ⟨k, h⟩ := downwardByte_form (s := s) b
      rw [List.foldl_cons, h]
      obtain ⟨m, h'⟩ := ih (s := { s with link := k }) (by assumption)
      exact ⟨m, h'⟩
  · exact ⟨s.link, rfl⟩

/-- So do all bytes of a command on the downward port. -/
theorem upwardReceived_form (l : List Byte) : ∃ link, upwardReceived l s = { s with link := link } := by
  unfold upwardReceived; split
  · induction l generalizing s with
    | nil => exact ⟨s.link, rfl⟩
    | cons b l ih =>
      obtain ⟨k, h⟩ := upwardByte_form (s := s) b
      rw [List.foldl_cons, h]
      obtain ⟨m, h'⟩ := ih (s := { s with link := k }) (by assumption)
      exact ⟨m, h'⟩
  · exact ⟨s.link, rfl⟩

/-- Reading the bytes of a frame from its marker on: while they are no more than the whole frame less one byte, and their
length byte, once there, is at most 240, all are held and nothing else happens. -/
theorem receive_prefix (l : List Byte) (h0 : l.head? = some 165#8)
    (h : ∀ n, l[5]? = some n → n.toNat ≤ 240 ∧ l.length < n.toNat + 8) (hs : s.link.upPartial = []) (hl : l ≠ []) :
    l.foldl downwardByte s = { s with link := { s.link with upPartial := l } } := by
  induction l using List.reverseRecOn with
  | nil => exact absurd rfl hl
  | append_singleton l b ih =>
    rw [List.foldl_append, List.foldl_cons, List.foldl_nil]
    rcases eq_or_ne l [] with rfl | hl'
    · obtain rfl : b = 165#8 := by simpa using h0
      simp [downwardByte, hs, receiveByte_marker]
    · have h0' : l.head? = some 165#8 := by
        obtain ⟨a, r, rfl⟩ := List.exists_cons_of_ne_nil hl'
        simpa using h0
      have key : ∀ n, l[5]? = some n → (l ++ [b])[5]? = some n := fun n hn => by
        rw [List.getElem?_append_left (List.getElem?_eq_some_iff.1 hn).1]; exact hn
      rw [ih h0' (fun n hn => by
        have := h n (key n hn)
        simp only [List.length_append, List.length_cons, List.length_nil] at this
        omega) hl']
      have : receiveByte l b = (l ++ [b], none) := by
        cases hn : (l ++ [b])[5]? with
        | none =>
          have := List.getElem?_eq_none_iff.1 hn
          simp only [List.length_append, List.length_cons, List.length_nil] at this
          exact receiveByte_header hl' (by omega)
        | some n =>
          obtain ⟨a, c⟩ := h n hn
          rw [receiveByte_body hl' hn, if_neg (by omega), if_pos c]
      simp [downwardByte, this]

end Sys2Proof.Laws
end

