-- ==== Sys2Proof/Laws/Runs.lean ====
section
/-! SUPPORT. Runs of table records: what reading a run gives, record by record, and what storing one leaves in a table. -/

namespace Sys2Proof.Laws

open Machine

variable {α : Type} {read : List Byte → Option α} {size : Nat}

/-- A run of several records is read record by record. -/
theorem readRun_cons (n : Nat) (r more : List Byte) (h : r.length = size) :
    readRun read size (n + 1) (r ++ more) = (read r).bind fun v => (readRun read size n more).map fun l => v :: l := by
  subst h
  simp only [readRun, List.take_left, List.drop_left]
  cases read r <;> cases readRun read r.length n more <;> rfl

/-- A run with a record that its table refuses is refused. -/
theorem readRun_none {run : List (List Byte)} (hs : ∀ r ∈ run, r.length = size) {r : List Byte} (hr : r ∈ run)
    (h : read r = none) : readRun read size run.length run.flatten = none := by
  induction run with
  | nil => cases hr
  | cons b run ih =>
    rw [List.length_cons, List.flatten_cons, readRun_cons _ _ _ (hs b (List.mem_cons_self ..))]
    rcases List.mem_cons.1 hr with rfl | hr
    · simp [h]
    · simp [ih (fun r h => hs r (List.mem_cons_of_mem _ h)) hr]

/-- A run of records that each read back reads back. -/
theorem readRun_flatMap {bytes : α → List Byte} {run : List α} (hs : ∀ v ∈ run, (bytes v).length = size)
    (hr : ∀ v ∈ run, read (bytes v) = some v) : readRun read size run.length (run.flatMap bytes) = some run := by
  induction run with
  | nil => rfl
  | cons v run ih =>
    rw [List.length_cons, List.flatMap_cons, readRun_cons _ _ _ (hs v (List.mem_cons_self ..)),
      hr v (List.mem_cons_self ..),
      ih (fun w h => hs w (List.mem_cons_of_mem _ h)) fun w h => hr w (List.mem_cons_of_mem _ h)]
    rfl

variable [DecidableEq α] {d : α}

/-- Storing a run from index `first` writes its records at their indices and leaves every other entry. -/
theorem get_setRun (first : Nat) (l : List α) (t : Table α) (i : Nat) :
    Table.get d (setRun d first l t) i =
      if first ≤ i ∧ i < first + l.length then l.getD (i - first) d else Table.get d t i := by
  induction l generalizing first t with
  | nil => simp only [setRun, List.length_nil]; rw [if_neg (by omega)]
  | cons v l ih =>
    rw [setRun, ih, List.length_cons, get_set]
    rcases Nat.lt_trichotomy i first with h | rfl | h
    · rw [if_neg (by omega), if_neg (by omega), if_neg (by omega)]
    · rw [if_neg (by omega), if_pos rfl, if_pos (by omega)]; simp
    · by_cases hl : i < first + 1 + l.length
      · rw [if_pos ⟨h, hl⟩, if_pos (by omega)]
        obtain ⟨k, rfl⟩ : ∃ k, i = first + 1 + k := ⟨i - (first + 1), by omega⟩
        rw [show first + 1 + k - (first + 1) = k by omega, show first + 1 + k - first = k + 1 by omega]
        rfl
      · rw [if_neg (by omega), if_neg (by omega), if_neg (by omega)]

/-- Storing a run keeps the table's canonical form. -/
theorem wf_setRun (first : Nat) (l : List α) {t : Table α} (h : Table.wf d t = true) :
    Table.wf d (setRun d first l t) = true := by
  induction l generalizing first t with
  | nil => exact h
  | cons v l ih => exact ih _ (wf_set h _ _)

end Sys2Proof.Laws
end

