-- ==== Sys2Proof/Tests/Slice0.lean ====
section
/-! SUPPORT. The model's own tests: ill-formed commands, sample requests, frames and replies written out from the spec's
layouts, the spec's worked examples, and for every obligation with hypotheses a state and operands that meet them. -/

namespace Sys2Proof.Tests

open Machine

-- The kernel's evaluations follow one another, so that no more than a few proofs wait for the kernel at a time.
set_option Elab.async false

/-- The state a command leads to. -/
def after (i : Instr) (s : State) : State :=
  match exec i s with
  | .next t => t
  | _ => s

/-- The frames of the upward queue: kind and payload. -/
def frames (s : State) : List (Byte × List Byte) := s.link.upQueue.map fun f => (f.kind, f.payload)

/-- A state after reset with its clock SET at `t`. -/
def setAt (t : Nat) : State :=
  { State.reset with clock := { Clock.cold with gateTime := t, valid := true, weekdayOffset := 6 } }

/-! ## Well-formed commands -/

theorem test_wf_segmentEnd : (Instr.segmentEnd 4).wf = false ∧ (Instr.segmentEnd 3).wf = true := by decide

theorem test_wf_laneEvents :
    [Instr.pollTimerExpiry 16, .headEmpty 16, .headPunch 16 true 5#32 .keyIn, .headDoorOpen 16 true,
      .headDoorClosed 16 true, .headTamperOn 16 true, .headTamperOff 16 true, .laneReplyBad 16, .laneReplyMissed 16,
      .releaseTimerExpiry 16, .heldTimerExpiry 16].all (fun i => !i.wf) = true
      ∧ (Instr.pollTimerExpiry 15).wf = true := by decide

/-- A request that another row takes is no UNKNOWN_REQUEST. -/
theorem test_wf_unknownRequest :
    (Instr.unknownRequest ⟨false, 18#8, 1#8, []⟩).wf = false ∧ (Instr.unknownRequest ⟨false, 200#8, 1#8, []⟩).wf = true := by
  decide

/-! ## Bytes: requests of R203, replies of R61, the CRCs -/

theorem test_decode_clock :
    decodeRequest ⟨false, 16#8, 7#8, [0#8, 1#8, 134#8, 160#8, 3#8]⟩ = .timeSet false 7#8 100000#32 3#8
      ∧ decodeRequest ⟨true, 17#8, 0#8, [255#8, 226#8]⟩ = .timeSlew true 0#8 (BitVec.ofInt 16 (-30)) := by decide

theorem test_decode_lanes :
    decodeRequest ⟨false, 48#8, 1#8, [4#8, 3#8]⟩ = .laneCommandPulse 1#8 4#8
      ∧ decodeRequest ⟨false, 49#8, 1#8, [2#8, 255#8]⟩ = .laneCountersReset 1#8 255#8
      ∧ decodeRequest ⟨false, 48#8, 1#8, [4#8, 4#8]⟩ = .unknownRequest ⟨false, 48#8, 1#8, [4#8, 4#8]⟩ := by decide

theorem test_decode_workers :
    decodeRequest ⟨false, 32#8, 9#8, [1#8, 49#8, 1#8, 3#8, 2#8, 1#8]⟩ = .workerSet 9#8 305#16 1#8 3#8 2#8 1#8
      ∧ decodeRequest ⟨false, 36#8, 9#8, [0#8, 1#8, 0#8, 0#8, 1#8, 49#8]⟩ = .badgeAdd 9#8 65536#32 305#16 := by decide

theorem test_decode_others :
    decodeRequest ⟨false, 4#8, 2#8, [6#8, 2#8, 0#8, 1#8]⟩ = .tableWrite 2#8 6#8 2#8 0#8 [1#8]
      ∧ decodeRequest ⟨false, 65#8, 2#8, [1#8, 0#8, 15#8]⟩ = .totalsRead 2#8 256#16 15#8
      ∧ decodeRequest ⟨false, 72#8, 2#8, [0#8, 8#8]⟩ = .periodClose 2#8 8#16
      ∧ decodeRequest ⟨false, 81#8, 2#8, [8#8, 0#8]⟩ = .journalTrim 2#8 2048#16
      ∧ decodeRequest ⟨true, 112#8, 2#8, []⟩ = .evacuate true 2#8
      ∧ decodeRequest ⟨true, 18#8, 1#8, []⟩ = .unknownRequest ⟨true, 18#8, 1#8, []⟩ := by decide

/-- CRC-16 with this polynomial and initial value gives 29B1 hex over the digits 1 to 9 (the CRC's usual check). -/
theorem test_crc16 : crc16 [49#8, 50#8, 51#8, 52#8, 53#8, 54#8, 55#8, 56#8, 57#8] = 0x29B1#16 := by decide +kernel

/-- CRC-8 with this polynomial and initial value gives F4 hex over the digits 1 to 9 (the CRC's usual check). -/
theorem test_crc8 : crc8 [49#8, 50#8, 51#8, 52#8, 53#8, 54#8, 55#8, 56#8, 57#8] = 0xF4#8 := by decide +kernel

/-- CRC-8 of a reply, its fields, and what is no reply (R61). EMPTY is 10 hex; a door state of 2 is outside its set. -/
theorem test_laneReply :
    laneReply 3 (laneFrame [18#8, 1#8, 1#8]) = .headDoorOpen 3 true
      ∧ laneReply 3 (laneFrame [19#8, 0#8, 0#8]) = .headTamperOff 3 false
      ∧ laneReply 3 (laneFrame [18#8, 1#8, 2#8]) = .laneReplyBad 3
      ∧ laneReply 3 [16#8] = .laneReplyBad 3 ∧ laneReply 3 [] = .laneReplyMissed 3 := by decide +kernel

/-- POLL is kind 1 in 3 bytes, its acknowledgment NONE 2; VERDICT is kind 2 in 4 bytes, BUSY 12 (R61). -/
theorem test_partFrames :
    (LaneFrame.bytes (.poll none)).take 2 = [1#8, 2#8] ∧ (LaneFrame.bytes (.poll (some true))).length = 3
      ∧ (LaneFrame.bytes (.verdict .busy 0)).take 3 = [2#8, 12#8, 0#8]
      ∧ (LaneFrame.bytes (.verdict .accept 3)).length = 4 := by decide +kernel

/-! ## Worked examples of the spec -/

/-- Section 1.4: a clock at phase 9 with +2 remaining advances by two seconds. -/
theorem test_slew_forward :
    let c : Clock := { (setAt 100009).clock with slew := 2, slewPhase := 9 }
    (c.second.gateTime, c.second.slew, c.second.slewPhase) = (100011, 1, 0) := by decide

/-- Section 1.4: a backward slewed tick holds the clock, and the next one advances it. -/
theorem test_slew_backward :
    let c : Clock := { (setAt 100031).clock with slew := -1, slewPhase := 9 }
    (c.second.gateTime, c.second.slew, c.second.second.gateTime, c.second.second.slewPhase) = (100031, 0, 100032, 0) := by
  decide

/-- Section 1.4: TIME SLEW of −30 replaces what remains and restarts the phase. -/
theorem test_slew_replaced :
    let s := { setAt 200000 with clock := { (setAt 200000).clock with slew := 437, slewPhase := 6 } }
    let t := after (.timeSlew false 1#8 (BitVec.ofInt 16 (-30))) s
    (t.clock.slew, t.clock.slewPhase, frames t) = (-30, 0, [(17#8, [0#8, 128#8])]) := by decide

/-- Crew 3 of section 2.6: five early, two off, five late, two off, five nights, two off. -/
def crew3 : Crew :=
  { Crew.cold with
    length := 21, anchor := 19000
    rota := List.replicate 5 (some 1) ++ [none, none] ++ List.replicate 5 (some 2) ++ [none, none]
      ++ List.replicate 5 (some 3) ++ List.replicate 9 none
    dr := 480, dl := 600, wr := 2400 }

/-- Section 2.6: the rota day before the anchor, at a night, at OFF, and after the rota. -/
theorem test_rotaDay :
    [18995, 19000, 19018, 19019, 19020, 19021].map crew3.rotaDay = [some 3, some 1, some 3, none, none, some 1] := by
  decide

/-- The tables of the worked cases: shift 3 of crew 3, shifts 9 and 10 of crew 7, shift 4, rate class 2. -/
def tables : State :=
  { setAt 1643241600 with
    shifts :=
      [(3, ⟨1320, 360, 30, 10, 5, 5, 15, 30, 360, 120⟩), (4, ⟨360, 840, 30, 10, 5, 5, 15, 30, 360, 240⟩),
        (9, ⟨1380, 420, 60, 0, 0, 0, 15, 0, 0, 0⟩), (10, ⟨180, 660, 240, 0, 0, 5, 15, 30, 360, 120⟩)]
    crews :=
      [(3, crew3), (5, { Crew.cold with dr := 480, dl := 600, wr := 2400 }),
        (7, { Crew.cold with length := 2, anchor := 19018, rota := some 9 :: some 10 :: List.replicate 26 none })]
    rates := [(2, ⟨347, 150, 175, 60⟩)]
    part := { PartRecord.cold with nightStart := 1320, nightEnd := 360 } }

/-- Section 2.6: a late IN on the morning after the last night finds the night's instance; at its end none is found. -/
theorem test_resolve_night :
    tables.resolve 3 1643260800 = some ⟨3, 19018, 1643234400, 1643263200⟩ ∧ tables.resolve 3 1643263200 = none := by
  decide

/-- Section 2.6: of two candidates at equal distance the later start wins, and one second before the nearer. -/
theorem test_resolve_tie :
    (tables.resolve 7 1643245200).map (fun c => (c.shift, c.day)) = some (10, 19019)
      ∧ (tables.resolve 7 1643245199).map (fun c => (c.shift, c.day)) = some (9, 19018) := by decide

/-- Section 6.8: the overtime day of worker 640. -/
def worker640 : Worker :=
  { Worker.zeroed with
    status := .active, crew := 5, rateClass := 2, dayTally := some ⟨19024, 510⟩, weekTally := some ⟨2719, 2160⟩
    live := ⟨2160, 45, 0, 0, 772943, 5⟩ }

/-- The attendance of worker 640 on shift 4. -/
def attendance640 : Attendance :=
  ⟨1643760000 + 20400, some ⟨4, 1643781600, 1643781600 + 28800⟩, 19025, 1643760000 + 64800, false, 0, false⟩

/-- Section 6.8: rounded times, minutes and pay of the first pairing of worker 640. -/
theorem test_pay_overtime :
    let l := tables.computePay worker640 attendance640 .out (1643760000 + 60730)
    (l.roundedIn, l.roundedOut, l.gross, l.worked) = (1643760000 + 20700, 1643760000 + 60300, 39600, 630)
      ∧ (l.regular, l.ot1, l.ot2, l.night, l.pay) = (240, 360, 30, 15, 289778) := by decide

/-- Section 6.8: the record of worker 640 after it. -/
theorem test_pay_record :
    let l := tables.computePay worker640 attendance640 .out (1643760000 + 60730)
    let w := worker640.paired attendance640 .out (1643760000 + 60730) (tables.weekIndex 19025) l
    w.live = ⟨2400, 405, 30, 15, 1062721, 6⟩ ∧ w.dayTally = some ⟨19025, 630⟩ ∧ w.weekTally = some ⟨2719, 2400⟩ := by
  decide

/-- Section 6.8: the night shift of worker 306 split at 02:00:00, and its continuation. -/
theorem test_pay_split :
    let day := 19014 * 86400
    let w : Worker :=
      { Worker.zeroed with
        status := .active, crew := 3, rateClass := 2, dayTally := some ⟨19011, 480⟩, weekTally := some ⟨2717, 480⟩
        live := ⟨1920, 0, 0, 1920, 781440, 4⟩ }
    let a : Attendance := ⟨day + 78800, some ⟨3, day + 79200, day + 108000⟩, 19014, day + 115200, false, 0, false⟩
    let l := tables.computePay w a .split (day + 93600)
    let w2 := { w.paired a .split (day + 93600) (tables.weekIndex 19014) l with live := Bank.zero }
    let l2 := (w2.attendance.map fun b => tables.computePay w2 b .out (day + 108590))
    (l.worked, l.night, l.pay) = (240, 240, 97680)
      ∧ l2.map (fun x => (x.worked, x.night, x.pay, x.breakTaken)) = some (210, 210, 85470, true) := by decide

/-- Section 11.8: a LANE write with two fields clamped. -/
theorem test_lane_clamped :
    let t := after (.tableWrite 1#8 6#8 2#8 1#8
      [1#8, 0#8, 0#8, 45#8, 0#8, 30#8, 20#8, 255#8, 255#8, 1#8, 2#8, 1#8, 5#8, 0#8, 3#8, 31#8, 255#8, 255#8]) State.reset
    ((t.laneRecord 2).releaseTime, (t.laneRecord 3).heldTime, (t.lane 3).state, frames t) =
      (30, 5, .idle, [(4#8, [1#8, 128#8])]) := by decide

/-- Section 11.8: a direction of 3 refuses the whole run. -/
theorem test_lane_refused :
    let t := after (.tableWrite 1#8 6#8 2#8 1#8
      [1#8, 0#8, 0#8, 45#8, 0#8, 30#8, 20#8, 255#8, 255#8, 1#8, 3#8, 1#8, 5#8, 0#8, 3#8, 31#8, 255#8, 255#8]) State.reset
    (t.laneTable, frames t) = ([], [(4#8, [4#8, 128#8])]) := by decide

/-- A frame that fills a place of the upward queue. -/
def filler : UpFrame := ⟨241#8, 0#8, []⟩

/-- Section 11.8: behind 5 frames WORKER READ waits, and it is taken, in 3 frames, once the queue holds 4. -/
theorem test_request_waits :
    let s := { State.reset with link := { State.reset.link with upQueue := List.replicate 5 filler } }
    let t := after (.workerRead 1#8 0#16 15#8) s
    let u := after (.workerRead 1#8 0#16 15#8) (after .upwardTransmit t)
    (t.link.requests.length, t.link.upQueue.length, u.link.requests.length, u.link.upQueue.length) = (1, 5, 0, 7) := by
  decide +kernel

/-- Section 9.6: a request of equal priority waits behind an active cadence. -/
theorem test_bells_contend :
    let s := { State.reset with
      patterns :=
        [(2, ⟨[⟨true, 30⟩, ⟨false, 10⟩, ⟨true, 30⟩, ⟨false, 0⟩, ⟨false, 0⟩, ⟨false, 0⟩, ⟨false, 0⟩, ⟨false, 0⟩], 2⟩),
          (5, ⟨[⟨true, 10⟩, ⟨false, 10⟩, ⟨false, 0⟩, ⟨false, 0⟩, ⟨false, 0⟩, ⟨false, 0⟩, ⟨false, 0⟩, ⟨false, 0⟩], 3⟩)] }
    let t := after (.bellRing false 1#8 2#8 2#8 1#8) s
    let u := after (.bellRing false 1#8 2#8 5#8 1#8) t
    ((t.arbiter 1).active.map (fun c => (c.pattern, c.priority, c.segment, c.passes)), (u.arbiter 1).waiting,
        t.bellAsserted 1) =
      (some (2, 1, 0, .finite 2), some ⟨5, 1⟩, true) := by decide

/-- Section 9.4: shift 3's END bell of the night of day 19,018 rings at 05:50 on day 19,019 and not a day later. -/
theorem test_shift_bell :
    let e : BellEntry := ⟨true, .shift, 0, 0#8, 3, .stop, -10, 1#8, 0, 0⟩
    let s := { tables with workers := [(306, { Worker.zeroed with status := .active, crew := 3 })] }
    s.ringsAt e 1643262600 = true ∧ s.ringsAt e 1643349000 = false := by decide +kernel

/-- Frames on the upward port: a TIME READ for the part's own address, its bytes in two commands; and one whose length
byte was corrupted from 0 to 3, which takes the bytes that follow it as its own until it is whole, and is then counted. -/
def timeReadFrame : List Byte :=
  [165#8, 0#8, 18#8, 1#8, 0#8, 0#8] ++ crc16Bytes [165#8, 0#8, 18#8, 1#8, 0#8, 0#8]

theorem test_frame_in_two_commands :
    let s := after (.downwardFrameReceived (timeReadFrame.take 7)) State.reset
    let t := after (.downwardFrameReceived (timeReadFrame.drop 7)) s
    s.link.requests = [] ∧ s.link.upPartial.length = 7 ∧ t.link.requests = [⟨false, 18#8, 1#8, []⟩]
      ∧ t.link.upPartial = [] := by decide +kernel

theorem test_frame_length_corrupt :
    let s := after (.downwardFrameReceived (timeReadFrame.set 5 3#8)) State.reset
    let t := after (.downwardFrameReceived timeReadFrame) s
    s.link.frameErrors = 0 ∧ s.link.upPartial.length = 8 ∧ t.link.frameErrors = 1 ∧ t.link.requests = [] := by
  decide +kernel

/-- An OUT before the in time, with no grace to lift it: NEGATIVE, and a gross of 0 (R112). -/
theorem test_pay_negative :
    let l := tables.computePay worker640 { attendance640 with inTime := 1643790000 } .out 1643789999
    l.negative = true ∧ l.gross = 0 := by decide +kernel

/-! ## Witnesses: states and operands that meet the obligations' hypotheses -/

/-- A request is ready in a state whose blocks run, with an empty request buffer and an empty upward queue. -/
theorem ready_when {i : Instr} {s : State} (h1 : s.running = true := by rfl) (h2 : s.link.restart = none := by rfl)
    (h3 : s.link.requests = [] := by rfl) (h4 : s.link.upQueue = [] := by rfl)
    (h5 : (encodeRequest i).isSome = true := by rfl) : Ready i s := by
  obtain ⟨r, hr⟩ := Option.isSome_iff_exists.1 h5
  exact ⟨h1, h2, .inl h3, r, hr, .inr (by simp [h4])⟩

/-- A SET clock, worker 1 INSIDE with an attendance, 2 OUTSIDE, 3 SUSPENDED, 4 UNKNOWN with an attendance, badges 100 to
400, and lanes in every state: 0 DISABLED, 1 IDLE, 2 RELEASED with a punch of worker 2, 3 OPEN, 4 LOST. -/
def site : State :=
  { tables with
    workers :=
      [(1, { Worker.zeroed with
          status := .active, crew := 3, rateClass := 2, presence := .inside
          attendance := some ⟨1643234400, some ⟨3, 1643234400, 1643263200⟩, 19018, 1643270400, false, 0, false⟩ }),
        (2, { Worker.zeroed with status := .active, crew := 3, rateClass := 2 }),
        (3, { Worker.zeroed with status := .suspended, crew := 3 }),
        (4, { Worker.zeroed with
          status := .active, crew := 3, presence := .unknown
          attendance := some ⟨1643234400, none, 19018, 1643300000, false, 0, false⟩ })]
    insideCount := 1
    badges := [(100, 1), (200, 2), (300, 3), (400, 4)]
    laneTable := [1, 2, 3, 4].map fun n => (n, { LaneRecord.cold with enabled := true })
    lanes :=
      [(1, { Lane.cold with state := .idle, replyWindow := some 31 }),
        (2, { Lane.cold with
          state := .released, releaseTimer := some 0, replyWindow := some 31
          punch := some ⟨200, 2, .inward, some 1643241600, none, none⟩ }),
        (3, { Lane.cold with state := .opened, heldTimer := some 0, replyWindow := some 31 }),
        (4, { Lane.cold with
          state := .lost, replyWindow := some 31, conditions := { LaneConditions.clear with lost := true } })] }

/-- `site` with lane `n` changed. -/
def withLane (n : Nat) (f : Lane → Lane) : State := site.setLane n (f (site.lane n))

/-- `site` while it is evacuating on command, its roll holding workers 1 and 4. -/
def fleeing : State := takeCause .command site

/-- `site` with 2048 entries in its journal. -/
def brimming : State :=
  { site with journal := { site.journal with entries := List.replicate 2048 ⟨0#32, none, .evacEnd⟩ } }

/-- `site` is consistent in every sense of the invariants that decide. -/
theorem site_fits :
    Table.wf Worker.zeroed site.workers = true ∧ Table.wf Lane.cold site.lanes = true
      ∧ site.insideCount = site.insideRecords := by decide +kernel

/-- `site` with a close in a phase. -/
def closing (p : ClosePhase) (t : Option Nat) (valid : Bool) : State :=
  { site with
    clock := { site.clock with valid := valid }
    close := { CloseState.cold with phase := p, crews := 8#16, gen := 15#8, tClose := 1643241600, gatherTimer := t } }

/-- An entry of a table is its cold-start entry or one that it lists. -/
theorem get_listed {α : Type} (d : α) (t : Table α) (i : Nat) :
    Table.get d t i = d ∨ Table.get d t i ∈ t.map fun e => e.2 := by
  induction t with
  | nil => exact .inl rfl
  | cons e t ih =>
    simp only [Table.get]
    split
    · exact .inr (by simp)
    · exact ih.imp id fun h => by simp only [List.map_cons, List.mem_cons]; exact .inr h

/-- What holds of a zeroed record and of the four of `site` holds of every record of `site`. -/
theorem site_worker (p : Worker → Prop) (h0 : p Worker.zeroed) (h : ∀ w ∈ site.workers.map (fun e => e.2), p w) (i : Nat) :
    p (site.worker i) := by
  rcases get_listed Worker.zeroed site.workers i with hi | hi
  · unfold State.worker; rw [hi]; exact h0
  · exact h _ hi

theorem witness_StepRunsFront :
    ({ site with pending := [.powerUp, .secondTick] } : State).pending = .powerUp :: [.secondTick] := rfl

/-- `site` with its millisecond divider at `n`. -/
def divided (n : Nat) : State := { site with clock := { site.clock with msDivider := n } }

theorem witness_IdleStepIsMillisecond :
    ([98, 99].all fun n => decide ((divided n).pending = []) && (divided n).running
      && Table.wf Lane.cold (divided n).lanes && decide ((divided n).clock.msDivider = n)) = true := by decide +kernel

theorem witness_RequestRoundTrip : encodeRequest (.timeRead 7#8) = some ⟨false, 18#8, 7#8, []⟩ := rfl

theorem witness_LaneReplyRoundTrip : encodeReply (.headEmpty 15) = some (laneFrame [16#8]) := rfl

theorem witness_ReplyIsCutInParts :
    ([0, 238, 239, 952].map fun n => (List.replicate n 0#8).length) = [0, 238, 239, 952]
      ∧ ([0, 238, 239, 476, 477, 714, 715, 952].map fun n => (replyParts 3 (List.replicate n 0#8)).length) =
        [1, 1, 2, 2, 3, 3, 4, 4] := by decide +kernel

/-- `site` with power items as given. -/
def powered (main intact : Bool) (start : Option StartKind) : State :=
  { site with power := { site.power with mainPower := main, retained := intact, starting := start } }

theorem witness_ColdStartIsReset :
    (powered true false (some .cold)).power.starting = some .cold ∧ (powered true false (some .cold)).power.mainPower = true := by
  decide

/-- A cold and a warm start; a warm one at the second before and at the deadline of worker 1, one that retains an
evacuation, one of each close phase, and one that finds the journal full. -/
theorem witness_StartValues :
    (∀ k, (powered true true (some k)).power.starting = some k ∧ (powered true true (some k)).power.mainPower = true)
      ∧ Table.wf Worker.zeroed (powered true true (some .warmReset)).workers = true
      ∧ (fleeing.evac.evacuating = true ∧ Table.wf Worker.zeroed fleeing.workers = true)
      ∧ (let s : State := { powered true true (some .warmMain) with clock := { site.clock with gateTime := 1643270400 } }
        s.clock.valid = true ∧ s.evac.evacuating = false
          ∧ [1, 4].map (fun i => (s.worker i).attendance.map fun a => decide (a.deadline ≤ s.clock.gateTime)) =
            [some true, some false])
      ∧ (∀ i a, (site.worker i).attendance = some a → (1643270399 : Nat) < a.deadline)
      ∧ (brimming.journalHigh = true ∧ brimming.journalFull = true ∧ site.journalHigh = false)
      ∧ ∀ p, (closing p none true).close.phase = p := by
  refine ⟨fun k => ⟨rfl, rfl⟩, by decide +kernel, by decide +kernel, by decide +kernel, fun i => ?_, by decide +kernel,
    fun _ => rfl⟩
  exact site_worker (fun w => ∀ a, w.attendance = some a → (1643270399 : Nat) < a.deadline) (by decide)
    (by decide +kernel) i

theorem witness_StartsBeginAndRestart :
    (powered true true none).power.mainPower = true
      ∧ ((powered false true none).power.mainPower = false ∧ (powered false true none).power.retained = true)
      ∧ ((powered false false none).power.mainPower = false ∧ (powered false false none).power.retained = false)
      ∧ Ready (.restart 1#8) site
      ∧ (∃ s : State, s.running = true ∧ s.link.upForward = [] ∧ s.link.upQueue = [filler]
          ∧ s.link.restart = some (0 + 1))
      ∧ ∃ s : State, s.running = true ∧ s.link.restart = some 0 :=
  ⟨rfl, ⟨rfl, rfl⟩, ⟨rfl, rfl⟩, ready_when,
    ⟨{ site with link := { site.link with upQueue := [filler], restart := some 1 } }, rfl, rfl, rfl, rfl⟩,
    ⟨{ site with link := { site.link with restart := some 0 } }, rfl, rfl⟩⟩

/-- A start on an intact and on a lost retained domain; second dividers 8 and 9, a second tick due and none, a slew ahead,
back and none at phases 8 and 9. -/
theorem witness_StartStopsTheBlocks :
    (powered true true (some .warmReset)).running = false
      ∧ (powered true false (some .cold)).power.retained = false
      ∧ (encodeRequest (.timeRead 1#8)).isSome = true
      ∧ (let s (f : Clock → Clock) : State := { powered true true (some .warmMain) with clock := f site.clock }
        (s id).running = false ∧ (s id).power.retained = true ∧ (s id).pending = [] ∧ (s id).clock.secondsDue = 0
          ∧ ([8, 9].map fun n => (after (.tick100ms true true) (s fun c => { c with secondDivider := n })).clock.secondsDue) =
            [0, 1]
          ∧ ([(0, 0), (1, 8), (1, 9), (-1, 9)].map fun p =>
              (after .secondTick (s fun c =>
                { c with gateTime := 100, slew := p.1, slewPhase := p.2, secondsDue := 1 })).clock.gateTime) =
            [101, 101, 102, 100]) := by decide +kernel

/-- `site` with its evacuation control changed. -/
def withEvac (f : Evac → Evac) : State := { site with evac := f site.evac }

/-- Dividers of 8 and 9, and of the chain line each case of level and samples. -/
theorem witness_TickCounts :
    ([8, 9].all fun n =>
        let s : State := { site with clock := { site.clock with secondDivider := n } }
        s.running && Table.wf Lane.cold s.lanes && Table.wf Arbiter.idle s.arbiters) = true
      ∧ (withEvac fun e => { e with armed := false }).evac.chainLevel = false
      ∧ (withEvac fun e => { e with chainLevel := true }).evac.chainLevel = true
      ∧ (after (.tick100ms false false) site).evac.chainSamples ≠ (true, true)
      ∧ (after (.tick100ms false true) (withEvac fun e => { e with chainSamples := (true, false) })).evac.chainSamples =
        (true, true) := by decide +kernel

/-- `site` with a second tick due and a slew as given. -/
def ticking (slew : Int) (phase : Nat) (valid : Bool) (t : Nat) : State :=
  { site with clock := { site.clock with
      gateTime := t, valid := valid, slew := slew, slewPhase := phase, secondsDue := 1 } }

/-- The first second of a day, and `site` with entry 0 a CLOCK entry of minute 0 on that day's weekday alone, at outputs 0
and 3. -/
def dayStart : Nat := 86400 * 19019

def belled : State :=
  { site with
    schedule := [(0, { BellEntry.cold with
      inUse := true, weekdays := BitVec.ofNat 8 (2 ^ site.weekday 19019), outputs := 9#8 })]
    patterns := [(0, ⟨⟨true, 30⟩ :: List.replicate 7 ⟨false, 0⟩, 1⟩)] }

theorem witness_SecondTickAdvances :
    ([ticking 0 0 true 100, ticking 1 8 true 100, ticking 1 9 true 100, ticking (-1) 9 true 100, ticking 0 0 false 100,
        ticking 1 9 true 4294967295].all fun s => s.running && decide (0 < s.clock.secondsDue)) = true
      ∧ (after .secondTick (ticking 1 9 true 4294967295)).clock.gateTime = 4294967295
      ∧ (after .secondTick (ticking 1 9 true 100)).clock.gateTime = 102
      ∧ (after .secondTick (ticking (-1) 9 true 100)).clock.gateTime = 100
      ∧ Table.wf Worker.zeroed site.workers = true
      ∧ ([dayStart - 1, dayStart, dayStart + 1].map fun t => belled.ringsAt (belled.bellEntry 0) t) = [false, true, false]
      ∧ (let s := after .secondTick { belled with clock := { belled.clock with gateTime := dayStart - 1, secondsDue := 1 } }
        [0, 1, 2, 3].map (fun o => (s.arbiter o).active.isSome) = [true, false, false, true]) := by decide +kernel

theorem witness_TimeSlewReplaces :
    Ready (.timeSlew false 1#8 3601#16) site ∧ site.clock.valid = true
      ∧ Ready (.timeSlew true 1#8 3600#16) State.reset ∧ State.reset.clock.valid = false :=
  ⟨ready_when, rfl, ready_when, rfl⟩

theorem witness_TimeSetTakes :
    (Ready (.timeSet false 1#8 100#32 7#8) site ∧ 6 < (7#8 : Byte).toNat)
      ∧ (Ready (.timeSet true 1#8 100#32 6#8) site ∧ (6#8 : Byte).toNat ≤ 6)
      ∧ (fleeing.evac.evacuating = true ∧ State.reset.clock.valid = false)
      ∧ (site.clock.valid = true ∧ site.evac.evacuating = false ∧ Table.wf Worker.zeroed site.workers = true)
      ∧ ([1643270399, 1643270400, 1643300000].map fun t =>
          ({ site with clock := { site.clock with gateTime := t } } : State).dueExpiries) = [[], [1], [1, 4]] :=
  ⟨⟨ready_when, by decide⟩, ⟨ready_when, by decide⟩, by decide +kernel⟩

theorem witness_FixedReadsReply :
    Ready (.timeRead 1#8) site ∧ Ready (.closeStatus 1#8) site ∧ Ready (.describe 1#8) site :=
  ⟨ready_when, ready_when, ready_when⟩

theorem witness_ClockOnlyLosesAtColdStart :
    exec (.timeRead 1#8) site = .next (after (.timeRead 1#8) site) ∧ site.clock.gateTime ≤ Config.maxTime
      ∧ site.clock.valid = true
      ∧ (¬ ∃ fire chain strap, Instr.timeRead 1#8 = .startComplete fire chain strap ∧ site.power.starting = some .cold)
      ∧ ¬ ∃ b tag time offset, Instr.timeRead 1#8 = .timeSet b tag time offset :=
  ⟨rfl, by decide, rfl, (by rintro ⟨_, _, _, h, -⟩; cases h), (by rintro ⟨_, _, _, _, h⟩; cases h)⟩

theorem witness_StatusRequestsReply :
    (Ready (.statusRead 1#8 0#8) site ∧ Ready (.statusRead 1#8 1#8) site ∧ Ready (.statusRead 1#8 2#8) site)
      ∧ Ready (.alertMask 1#8 0#8 1#8) site ∧ Ready (.alertMask 1#8 0#8 2#8) site
      ∧ Table.wf Lane.cold site.lanes = true :=
  ⟨⟨ready_when, ready_when, ready_when⟩,
    ready_when, ready_when, site_fits.2.1⟩

/-- TABLE WRITE is ready whatever its operands. -/
theorem tableWrite_ready (tag t f c : Byte) (l : List Byte) : Ready (.tableWrite tag t f c l) site :=
  ready_when

/-- Clauses of the refusals at their boundaries: tables 0 and 8, the run past the end by one, the run one too long, a
length one short; of every table a record with a field just outside its set, and a run whose second record is one. -/
theorem witness_TableRequestsAreRefused :
    Ready (.tableWrite 1#8 0#8 0#8 0#8 []) site ∧ Ready (.tableRead 1#8 1#8 31#8 0#8) site
      ∧ (tableOf 0#8 = none ∧ tableOf 8#8 = none ∧ tableOf 7#8 = some .part)
      ∧ (TableId.records .shift < 31 + (1 + 1) ∧ TableId.perRequest .crew < 6 + 1)
      ∧ (31 + (0 + 1) ≤ TableId.records .shift ∧ 0 + 1 ≤ TableId.perRequest .shift
        ∧ (List.replicate 13 0#8).length ≠ (0 + 1) * TableId.size .shift)
      ∧ (readShift (List.replicate 14 0#8) = none ∧ readCrew (List.replicate 38 0#8) = none)
      ∧ (TableId.outside .shift (Shift.cold.bytes.set 8 0#8) ∧ TableId.outside .shift (Shift.cold.bytes.set 5 61#8)
        ∧ TableId.outside .crew (crew3.bytes.set 0 29#8) ∧ TableId.outside .crew (crew3.bytes.set 3 32#8)
        ∧ TableId.outside .rate [0#8, 0#8, 0#8, 99#8, 0#8, 100#8, 0#8, 0#8]
        ∧ TableId.outside .schedule (BellEntry.cold.bytes.set 10 4#8) ∧ TableId.outside .pattern (Pattern.cold.bytes.set 8 16#8)
        ∧ TableId.outside .lane (LaneRecord.cold.bytes.set 1 3#8)
        ∧ TableId.outside .part ((PartRecord.cold.bytes.set 1 8#8).set 2 0#8))
      ∧ (let run := [Rate.cold.bytes, [0#8, 0#8, 0#8, 100#8, 1#8, 145#8, 0#8, 0#8]]
        run.length = (1#8 : Byte).toNat + 1 ∧ (∀ r ∈ run, r.length = TableId.size .rate)
          ∧ 14 + ((1#8 : Byte).toNat + 1) ≤ TableId.records .rate ∧ ∃ r ∈ run, TableId.outside .rate r) := by
  refine ⟨tableWrite_ready .., ready_when, by decide, by decide, by decide, by decide, ?_, by decide, by decide, by decide,
    _, List.mem_cons_of_mem _ (List.mem_cons_self ..), by simp only [TableId.outside]; decide⟩
  refine ⟨?_, ?_, ?_, .inr (.inr (.inl ⟨3, by decide⟩)), ?_⟩ <;> simp only [TableId.outside]
  · decide
  · decide
  · exact .inr (.inl (by decide))
  · decide

/-- The cold-start LANE and PART records in their 9 and 15 bytes (section 4.1, R201, R202), and BELL SCHEDULE's offset
of -10. -/
theorem test_recordBytes :
    recordBytes State.reset .lane 0 = [0#8, 2#8, 0#8, 5#8, 0#8, 30#8, 31#8, 255#8, 255#8]
      ∧ recordBytes State.reset .part 0 =
        [0#8, 6#8, 0#8, 0#8, 2#8, 3#8, 0#8, 0#8, 0#8, 0#8, 0#8, 0#8, 0#8, 50#8, 0#8]
      ∧ (({ BellEntry.cold with offset := -10 } : BellEntry).bytes.getD 7 0#8) = 246#8 := by decide

/-- Runs of two records that end at the end of their table. -/
theorem witness_TableWriteStores :
    (∀ t c f l, Ready (.tableWrite 1#8 t c f l) site)
      ∧ (∀ r ∈ [tables.shift 3, tables.shift 4], r.legal = true)
      ∧ (∀ r ∈ [crew3, Crew.cold], r.legal = true ∧ r.rota.length = 28 ∧ r.anchor ≤ 65535)
      ∧ (∀ r ∈ [tables.rate 2, Rate.cold], r.legal = true ∧ r.base ≤ 65535 ∧ r.premium ≤ 65535)
      ∧ (∀ r ∈ [BellEntry.cold, belled.bellEntry 0], r.legal = true ∧ r.weekdays.toNat < 128 ∧ r.outputs.toNat < 16)
      ∧ (∀ r ∈ [Pattern.cold, belled.pattern 0],
        r.segments.length = 8 ∧ (∀ g ∈ r.segments, g.duration ≤ 63) ∧ 1 ≤ r.repeats ∧ r.repeats ≤ 15)
      ∧ (30 + 2 ≤ 32 ∧ 14 + 2 ≤ 16 ∧ 62 + 2 ≤ 64 ∧ (1#8 : Byte).toNat + 1 = 2) :=
  ⟨fun _ _ _ _ => tableWrite_ready .., by decide⟩

/-- Lane 15 becomes enabled, lane 2, which holds a punch, and lane 4, which is LOST, become disabled, and lane 1 stays
enabled. -/
theorem witness_LaneWriteActs :
    (∀ lane e, Ready (.tableWrite 1#8 6#8 lane 0#8 [e, 2#8, 1#8, 31#8, 0#8, 4#8, 32#8, 0#8, 0#8]) site)
      ∧ (site.laneRecord 15).enabled = false ∧ (site.laneRecord 2).enabled = true ∧ (site.laneRecord 1).enabled = true
      ∧ (site.lane 2).punch.isSome = true ∧ (15#8 : Byte).toNat < 16
      ∧ ((site.laneRecord 4).enabled = true ∧ (site.lane 4).conditions.lost = true ∧ (site.lane 4).changes.lost = false)
      ∧ (1 < (2#8 : Byte).toNat ∧ 2 < (3#8 : Byte).toNat)
      ∧ (let run := [LaneRecord.cold, { LaneRecord.cold with enabled := true, releaseTime := 30, heldTime := 300, window := 1 }]
        (∀ r ∈ run, 1 ≤ r.releaseTime ∧ r.releaseTime ≤ 30 ∧ 5 ≤ r.heldTime ∧ r.heldTime ≤ 300 ∧ 1 ≤ r.window
            ∧ r.window ≤ 31)
          ∧ Ready (.tableWrite 1#8 6#8 2#8 1#8 (run.flatMap LaneRecord.bytes)) site
          ∧ Ready (.tableWrite 1#8 6#8 14#8 1#8 (run.flatMap LaneRecord.bytes)) site
          ∧ run.length = (1#8 : Byte).toNat + 1 ∧ (14#8 : Byte).toNat + run.length ≤ 16) :=
  ⟨fun _ _ => tableWrite_ready .., by decide, by decide, by decide, by decide, by decide, by decide, by decide, by decide,
    tableWrite_ready .., tableWrite_ready .., by decide⟩

/-- High marks 63 and 2048, minute 1440, week start 7 and pattern 16 are refused; 64, 2047, 1439, 6 and 15 are not. -/
theorem witness_PartWriteReplaces :
    (∀ l, Ready (.tableWrite 1#8 7#8 0#8 0#8 l) site)
      ∧ (nat16 0#8 63#8 < 64 ∧ 2047 < nat16 8#8 0#8 ∧ 1439 < nat16 5#8 160#8 ∧ 6 < (7#8 : Byte).toNat
        ∧ 15 < (16#8 : Byte).toNat)
      ∧ (64 ≤ nat16 0#8 64#8 ∧ nat16 7#8 255#8 ≤ 2047 ∧ nat16 5#8 159#8 ≤ 1439) :=
  ⟨fun _ => tableWrite_ready .., by decide⟩

theorem witness_UnknownRequestIsAnswered :
    Ready (.unknownRequest ⟨false, 200#8, 1#8, []⟩) site ∧ Ready (.unknownRequest ⟨false, 48#8, 1#8, [15#8, 4#8]⟩) site
      ∧ Ready (.unknownRequest ⟨false, 48#8, 1#8, [16#8, 4#8]⟩) site
      ∧ Ready (.unknownRequest ⟨false, 49#8, 1#8, [3#8, 15#8]⟩) site
      ∧ Ready (.unknownRequest ⟨false, 49#8, 1#8, [3#8, 254#8]⟩) site
      ∧ Ready (.unknownRequest ⟨true, 18#8, 1#8, []⟩) site :=
  ⟨ready_when, ready_when, ready_when,
    ready_when, ready_when, ready_when⟩

/-- A part with a frame in both upward sources and in the downward buffer. -/
def loaded (last : Option UpSource) : State :=
  { site with link := { site.link with
      upQueue := [filler], upForward := [[165#8]], downForward := [[165#8]], lastSource := last } }

theorem witness_FramesAreRouted :
    (site.running = true ∧ site.link.upPartial = [] ∧ site.link.downPartial = [] ∧ site.link.address = 0
      ∧ (List.replicate 240 0#8).length ≤ 240 ∧ 240 < (241#8 : Byte).toNat ∧ 165#8 ∉ [0#8, 241#8])
      ∧ ((0#8 : Byte).toNat % 32 = 0 ∧ (31#8 : Byte).toNat % 32 = 31 ∧ (127#8 : Byte).toNat < 128
        ∧ (30#8 : Byte).toNat % 32 ≠ 31 ∧ 128 ≤ (128#8 : Byte).toNat)
      ∧ [0#8, 0#8] ≠ crc16Bytes [165#8, 0#8, 18#8, 1#8, 0#8, 0#8]
      ∧ (∃ s : State, s.running = true ∧ s.link.upForward.length = 2 ∧ s.link.downForward.length = 2)
      ∧ (site.link.upForward.length < 2 ∧ (loaded none).link.downForward.length = 1)
      ∧ ∃ s : State, s.link.requests.length = 2 :=
  ⟨by decide +kernel, by decide, by decide +kernel,
    ⟨{ site with link := { site.link with upForward := [[], []], downForward := [[], []] } }, rfl, rfl, rfl⟩, by decide,
    ⟨{ site with link := { site.link with requests := List.replicate 2 ⟨false, 18#8, 1#8, []⟩ } }, rfl⟩⟩

theorem witness_TransmittersSend :
    ((loaded (some .forward)).running = true ∧ (loaded (some .forward)).link.restart = none
      ∧ (loaded (some .forward)).link.upQueue = [filler] ∧ (loaded (some .forward)).link.lastSource = some .forward)
      ∧ ((loaded (some .own)).link.upForward = [[165#8]] ∧ (loaded (some .own)).link.lastSource = some .own)
      ∧ (loaded none).link.downForward = [[165#8]] := by decide

theorem witness_WorkerTableWrites :
    (∀ i st, Ready (.workerSet 1#8 i st 15#8 15#8 0#8) site) ∧ (∀ i, Ready (.workerFree 1#8 i) site)
      ∧ (∀ i p, Ready (.presenceSet 1#8 i p) site)
      ∧ (4096 ≤ (4096#16 : Half).toNat ∧ (4095#16 : Half).toNat < 4096 ∧ (site.worker 4095).status = .free)
      ∧ ((site.worker 1).presence = .inside ∧ (site.worker 4).attendance ≠ none)
      ∧ ((site.worker 2).status ≠ .free ∧ (site.worker 2).presence ≠ .inside ∧ (site.worker 2).attendance = none
        ∧ (site.worker 2).muster ≠ .unaccounted ∧ (site.lane 2).state = .released
        ∧ (site.lane 2).punch.map (fun p => p.worker) = some 2)
      ∧ ((site.worker 3).status ≠ .free ∧ (site.worker 3).attendance = none ∧ site.heldByLane 3 = false)
      ∧ presenceOf 2#8 = some .unknown ∧ (fleeing.worker 1).muster = .unaccounted :=
  ⟨fun _ _ => ready_when, fun _ => ready_when,
    fun _ _ => ready_when, by decide +kernel⟩

theorem witness_RecordReadsReply :
    (∀ f c, Ready (.workerRead 1#8 f c) site ∧ Ready (.closedRead 1#8 f c) site ∧ Ready (.musterRead 1#8 f c) site)
      ∧ (∀ i, Ready (.musterList 1#8 i) site)
      ∧ (15 < (16#8 : Byte).toNat ∧ 4096 < (4081#16 : Half).toNat + (15#8 : Byte).toNat + 1)
      ∧ (4080#16 : Half).toNat + (15#8 : Byte).toNat + 1 ≤ 4096
      ∧ ([1, 2, 4].map fun i => (site.worker i).attendance.map fun a => a.scheduled.map fun c =>
          decide (c.start ≤ 4294967295 ∧ c.stop ≤ 4294967295)) = [some (some true), none, some none]
      ∧ worker640.dayTally.isSome = true ∧ worker640.weekTally.isSome = true ∧ (site.worker 1).dayTally = none :=
  ⟨fun _ _ => ⟨ready_when, ready_when, ready_when⟩,
    fun _ => ready_when, by decide⟩

theorem witness_TotalsReadReplies :
    Ready (.totalsRead 1#8 4081#16 15#8) site ∧ Ready (.totalsRead 1#8 4080#16 15#8) site
      ∧ Ready (.totalsRead 1#8 0#16 16#8) site :=
  ⟨ready_when, ready_when, ready_when⟩

theorem witness_TotalsLatchCopies :
    (∀ n, Ready (.totalsLatch 1#8 n) site)
      ∧ (4096 ≤ (4096#16 : Half).toNat ∧ (65534#16 : Half).toNat ≠ 65535 ∧ (4095#16 : Half).toNat < 4096)
      ∧ (site.worker 1).status ≠ .free ∧ (site.worker 5).status = .free :=
  ⟨fun _ => ready_when, by decide⟩

/-- `site` with `n` entries of one code in its badge map. -/
def crowded (n : Nat) : State := { site with badges := List.replicate n (1000, 1) }

theorem crowded_full (n : Nat) : n ≤ (crowded n).badges.length ∧ (crowded n).lookup 50 = none := by
  have h : (List.replicate n ((1000, 1) : Nat × Nat)).find? (fun e => decide (e.1 = 50)) = none := by
    rw [List.find?_eq_none]
    intro e he
    rw [List.eq_of_mem_replicate he]
    decide
  exact ⟨(List.length_replicate ..).ge, by simp only [State.lookup, crowded, h]⟩

theorem witness_BadgeMapRequests :
    (∀ c i, Ready (.badgeAdd 1#8 c i) site) ∧ (∀ c, Ready (.badgeRemove 1#8 c) site ∧ Ready (.badgeFind 1#8 c) site)
      ∧ (∀ f c, Ready (.badgeRead 1#8 f c) site)
      ∧ (site.lookup 100 = some 1 ∧ site.lookup 1 = none ∧ site.lookup 4294967294 = none)
      ∧ ((site.worker 5).status = .free ∧ (site.worker 1).status ≠ .free ∧ site.badges.length < 8192)
      ∧ (8192 < 8177 + (15#8 : Byte).toNat + 1 ∧ 8176 + (15#8 : Byte).toNat + 1 ≤ 8192)
      ∧ ∃ s : State, Ready (.badgeAdd 1#8 50#32 1#16) s ∧ (s.worker 1).status ≠ .free ∧ 8192 ≤ s.badges.length
          ∧ s.lookup 50 = none :=
  ⟨fun _ _ => ready_when,
    fun _ => ⟨ready_when, ready_when⟩,
    fun _ _ => ready_when, by decide, by decide, by decide,
    ⟨crowded 8192, ready_when, by decide, crowded_full 8192⟩⟩

theorem witness_EntryIsOffered :
    site.journal.entries.length < 2048 ∧ 2048 ≤ brimming.journal.entries.length ∧ brimming.part.wrap = false
      ∧ ({ brimming with part := { site.part with wrap := true } } : State).part.wrap = true
      ∧ site.journalHigh = (offerEntry .evacEnd site).journalHigh
      ∧ site.journalFull = (offerEntry .evacEnd site).journalFull
      ∧ ({ site with part := { site.part with liveNotices := true } } : State).link.upQueue.length < 6
      ∧ (let s : State := { brimming with part := { site.part with wrap := true, liveNotices := true } }
        2048 ≤ s.journal.entries.length ∧ s.link.upQueue.length < 6
          ∧ s.journalHigh = (offerEntry .evacEnd s).journalHigh ∧ s.journalFull = (offerEntry .evacEnd s).journalFull) := by
  simp only [State.journalHigh, State.journalFull, Laws.offerEntry_part, Laws.offerEntry_journal]
  decide +kernel

/-- A PAYLINE with two gate times, the last of them the greatest, and an entry of every other kind laid out by R204. -/
theorem witness_EntryLayout :
    (⟨1#32, some 2, .payline 3 0 4294967295 4 5 6 7 8 ⟨true, false, false, false, false, false, false, true⟩⟩ :
        Entry).bytes.length = 33
      ∧ (⟨258#32, none, .punch .never 3 4 none .outward .rejected (some .laneLocked)
          ⟨false, false, false, false, false, false, false⟩⟩ : Entry).bytes =
        [0#8, 0#8, 1#8, 2#8, 0#8, 1#8, 0#8, 0#8, 0#8, 0#8, 2#8, 0#8, 0#8, 0#8, 0#8, 3#8, 0#8, 0#8, 0#8, 4#8, 255#8,
          255#8, 1#8, 2#8, 1#8, 0#8]
      ∧ (⟨0#32, some 7, .override_ 513 .inside .outside true⟩ : Entry).bytes =
        [0#8, 0#8, 0#8, 0#8, 4#8, 0#8, 0#8, 0#8, 0#8, 7#8, 2#8, 1#8, 1#8, 0#8, 1#8] := by decide +kernel

theorem witness_JournalRequestsReply :
    Ready (.journalRead 1#8 8#8) site ∧ Ready (.journalRead 1#8 7#8) site ∧ Ready (.journalTrim 1#8 0#16) site
      ∧ Ready (.journalTrim 1#8 2048#16) site ∧ Ready (.journalTrim 1#8 2049#16) site
      ∧ Ready (.journalStatus 1#8 1#8) site ∧ Ready (.journalStatus 1#8 2#8) site :=
  ⟨ready_when, ready_when, ready_when,
    ready_when, ready_when, ready_when,
    ready_when⟩

/-- Lane 16 is refused; lane 1 is IDLE, 2 RELEASED with a punch, 3 OPEN, 4 LOST, 15 DISABLED. -/
theorem witness_LaneCommandsAct :
    (∀ n, Ready (.laneCommandNormal 1#8 n) site ∧ Ready (.laneCommandLocked 1#8 n) site
      ∧ Ready (.laneCommandUnlocked 1#8 n) site ∧ Ready (.laneCommandPulse 1#8 n) site)
      ∧ (15 < (16#8 : Byte).toNat ∧ (15#8 : Byte).toNat ≤ 15)
      ∧ ([1, 2, 3, 4, 15].map fun n => (site.lane n).state) = [.idle, .released, .opened, .lost, .disabled]
      ∧ (site.lane 2).punch.isSome = true
      ∧ (let s := withLane 2 fun l => { l with punch := none }
        (s.lane 2).state = .released ∧ s.gaveUp 2 = s)
      ∧ (∃ s : State, Ready (.laneCommandNormal 1#8 3#8) s ∧ (s.lane 3).mode = .unlocked ∧ (s.lane 3).state = .opened)
      ∧ (∃ s : State, Ready (.laneCommandPulse 1#8 1#8) s ∧ (s.lane 1).mode = .unlocked ∧ (s.lane 1).state = .idle)
      ∧ (site.lane 1).mode ≠ .unlocked ∧ site.evac.evacuating = false
      ∧ ∃ s : State, Ready (.laneCommandPulse 1#8 1#8) s ∧ (s.lane 1).state = .idle ∧ s.evac.evacuating = true :=
  ⟨fun _ => ⟨ready_when, ready_when, ready_when,
      ready_when⟩, by decide, by decide, by decide, by decide,
    ⟨withLane 3 fun l => { l with mode := .unlocked }, ready_when, by decide⟩,
    ⟨withLane 1 fun l => { l with mode := .unlocked }, ready_when, by decide⟩, by decide, by decide,
    ⟨withEvac fun e => { e with evacuating := true }, ready_when, by decide⟩⟩

theorem witness_LaneCountersAct :
    (∀ n, Ready (.laneCountersLatch 1#8 n) site ∧ Ready (.laneCountersRead 1#8 n) site
      ∧ Ready (.laneCountersReset 1#8 n) site)
      ∧ (15 < (16#8 : Byte).toNat ∧ (254#8 : Byte) ≠ 255#8 ∧ (15#8 : Byte).toNat ≤ 15) :=
  ⟨fun _ => ⟨ready_when, ready_when, ready_when⟩,
    by decide⟩

/-- Lane `n` of `site` with its reply window run out and a missed count. -/
def silent (n missed : Nat) : State := withLane n fun l => { l with replyWindow := some 0, missed := missed }

theorem witness_PollsAndMissedReplies :
    (site.running = true ∧ ((withLane 1 fun l => { l with pollTimer := some 0, replyWindow := none }).lane 1).pollTimer =
        some 0)
      ∧ (((silent 1 1).lane 1).replyWindow = some 0 ∧ min (((silent 1 1).lane 1).missed + 1) 255 < 3)
      ∧ (((silent 4 255).lane 4).state = .lost ∧ ((silent 4 255).lane 4).replyWindow = some 0)
      ∧ ((site.lane 1).replyWindow.isSome = true ∧ (site.lane 1).state ≠ .disabled)
      ∧ ([1, 2, 3].map fun n => ((silent n 2).lane n).state) = [.idle, .released, .opened]
      ∧ 3 ≤ min (((silent 2 2).lane 2).missed + 1) 255 ∧ ((silent 2 2).lane 2).punch.isSome = true
      ∧ (let s := withLane 1 fun l => { l with missed := 2 }
        (s.lane 1).replyWindow = some 31 ∧ (s.lane 1).state = .idle ∧ 3 ≤ min ((s.lane 1).missed + 1) 255
          ∧ ((after (.laneReplyBad 1) s).lane 1).changes.lost = true) := by decide +kernel

/-- `s` with every alert enabled. -/
def alerting (s : State) : State := { s with part := { s.part with alertEnable := true } }

/-- Alerts of single conditions: LOST of lane 1, HELD of lane 3, FORCED of lane 1, TAMPER of lane 1 set and cleared, LOST of
lane 4 cleared by its disabling, JOURNAL_FULL cleared, EVACUATING, and CLOSE_DONE with CLOCK_UNSET (R195, R204). -/
theorem test_alerts :
    frames (after (.laneReplyMissed 1) (alerting (silent 1 2))) = [(240#8, [0#8, 1#8, 1#8])]
      ∧ frames (after (.heldTimerExpiry 3) (alerting site)) = [(240#8, [2#8, 3#8, 1#8])]
      ∧ frames (after (.headDoorOpen 1 true) (alerting site)) = [(240#8, [1#8, 1#8, 1#8])]
      ∧ frames (after (.headTamperOn 1 true) (alerting site)) = [(240#8, [3#8, 1#8, 1#8])]
      ∧ frames (after (.headTamperOff 1 true) (alerting (withLane 1 fun l =>
          { l with conditions := { l.conditions with tamper := true } }))) = [(240#8, [3#8, 1#8, 0#8])]
      ∧ frames (disableLane 4 (alerting site)) = [(240#8, [0#8, 4#8, 0#8])]
      ∧ frames (trimJournal 1 (alerting brimming)) = [(240#8, [5#8, 255#8, 0#8])]
      ∧ frames (takeCause .command (alerting site)) = [(240#8, [6#8, 255#8, 1#8])]
      ∧ frames (after .gatherTimerExpiry (alerting (closing .gathering (some 0) false))) =
        [(240#8, [7#8, 255#8, 2#8])] := by decide +kernel

/-- A LOCKED command and a disabling give up lane 2's punch with the same UNUSED entry, and no other entry (R72, R59, R96). -/
theorem test_givenUp :
    let bodies (s : State) := s.journal.entries.map fun e => e.body
    let unused := EntryBody.punch (.time 1643241600) 2 200 (some 2) .inward .unused none
      ⟨false, false, false, false, false, false, false⟩
    bodies (after (.laneCommandLocked 1#8 2#8) site) = [unused] ∧ bodies (disableLane 2 site) = [unused]
      ∧ bodies (after (.laneCommandUnlocked 1#8 2#8) site) = [] := by decide +kernel

/-- A warm start begins an evacuation on FIRE: EVAC START, then the alerts of EVACUATING and of JOURNAL_HIGH (R205). -/
theorem test_startAlerts :
    let s := { powered true true (some .warmMain) with
      journal := { site.journal with entries := List.replicate 1536 ⟨0#32, none, .evacEnd⟩ } }
    let t := after (.startComplete true false 5#5) (alerting s)
    frames t = [(240#8, [6#8, 255#8, 1#8]), (240#8, [4#8, 255#8, 1#8])]
      ∧ (t.journal.entries.drop 1536).map (fun e => e.body) = [.evacStart ⟨true, false, false⟩]
      ∧ (t.evac.rollSize, t.evac.unaccounted) = (2, 2) := by decide +kernel

theorem witness_GoodRepliesCount :
    ([1, 2, 3, 4].all fun n => site.awaitsReply n) = true
      ∧ ((site.lane 4).state = .lost ∧ (site.lane 4).good = 0 ∧ (site.lane 4).lastBit ≠ some true)
      ∧ (((withLane 4 fun l => { l with good := 1 }).lane 4).good = 1
        ∧ ((withLane 4 fun l => { l with good := 1, lastBit := some false }).lane 4).lastBit ≠ some true
        ∧ (withLane 4 fun l => { l with good := 1 }).awaitsReply 4 = true)
      ∧ ((withLane 1 fun l => { l with lastBit := some true }).lane 1).lastBit = some true := by decide +kernel

/-- Every line of the evaluation order is reached at lane 1 by some code and state. -/
theorem witness_EvaluationOrder :
    site.judge 1 0 .keyIn = .refuse .malformed ∧ site.judge 1 4294967295 .keyIn = .refuse .malformed
      ∧ fleeing.judge 1 100 .keyIn = .muster
      ∧ (withLane 1 fun l => { l with mode := .locked }).judge 1 100 .keyIn = .refuse .laneLocked
      ∧ site.judge 1 1 .keyIn = .refuse .unknownBadge
      ∧ (stampPunch 1 2 site).judge 1 200 .keyIn = .ignored
      ∧ site.judge 1 200 .keyOut = .accept ⟨200, 2, .outward, some 1643241600, none, some .passbackOut⟩
      ∧ site.judge 1 300 .keyIn = .refuse .suspended
      ∧ ({ site with laneTable := [(1, { LaneRecord.cold with enabled := true, crewMask := 0#16 })] } : State).judge 1 200
          .keyIn = .refuse .notThisLane
      ∧ brimming.judge 1 200 .keyIn = .refuse .journalFull
      ∧ site.judge 1 100 .keyIn = .refuse .passback
      ∧ ({ site with clock := { site.clock with gateTime := 1643263200 } } : State).judge 1 200 .keyIn =
          .refuse .outOfShift
      ∧ site.judge 1 200 .keyNone =
          .accept ⟨200, 2, .inward, some 1643241600, some ⟨3, 19018, 1643234400, 1643263200⟩, none⟩
      ∧ ({ site with clock := { site.clock with valid := false } } : State).judge 1 200 .keyIn =
          .accept ⟨200, 2, .inward, none, none, none⟩
      ∧ 0 < crew3.length
      ∧ ([crew3.anchor - 1, crew3.anchor, crew3.anchor + crew3.length].map fun d => crew3.rotaDay d) =
        [crew3.rota.getD (crew3.length - 1) none, crew3.rota.getD 0 none, crew3.rota.getD 0 none] := by decide +kernel

theorem witness_PunchesAct :
    (site.awaitsReply 1 = true ∧ (site.lane 1).lastBit ≠ some true ∧ (site.lane 1).state = .idle)
      ∧ (site.judge 1 200 .keyOut = .accept ⟨200, 2, .outward, some 1643241600, none, some .passbackOut⟩)
      ∧ (withLane 1 fun l => { l with mode := .unlocked }).judge 1 200 .keyOut =
          .accept ⟨200, 2, .outward, some 1643241600, none, some .passbackOut⟩
      ∧ (site.judge 1 0 .keyIn = .refuse .malformed ∧ site.judge 1 300 .keyIn = .refuse .suspended)
      ∧ (stampPunch 1 2 site).judge 1 200 .keyIn = .ignored
      ∧ (site.awaitsReply 2 = true ∧ (site.lane 2).state = .released)
      ∧ (site.awaitsReply 3 = true ∧ (site.lane 3).state = .opened ∧ site.evac.evacuating = false) := by decide +kernel

theorem witness_MusterPunchActs :
    (fleeing.awaitsReply 1 = true ∧ (fleeing.lane 1).lastBit ≠ some true ∧ (fleeing.lane 1).state = .idle)
      ∧ (fleeing.awaitsReply 3 = true ∧ (fleeing.lane 3).state = .opened ∧ (fleeing.lane 3).lastBit ≠ some true)
      ∧ fleeing.evac.evacuating = true
      ∧ ((after (.headPunch 3 true 0#32 .keyIn) fleeing).lane 3).refusals = 1
      ∧ fleeing.lookup 1 = none
      ∧ (fleeing.lookup 100 = some 1 ∧ (fleeing.worker 1).muster = .unaccounted)
      ∧ (fleeing.lookup 200 = some 2 ∧ (fleeing.worker 2).muster ≠ .unaccounted) := by decide +kernel

theorem witness_DoorEventsAct :
    ([1, 2, 3].all fun n => site.awaitsReply n) = true
      ∧ ([1, 2, 3].map fun n => (site.lane n).lastBit) = [none, none, none]
      ∧ ([1, 2, 3].map fun n => (site.lane n).state) = [.idle, .released, .opened]
      ∧ (site.evac.evacuating = false ∧ (site.lane 1).mode ≠ .unlocked)
      ∧ ((withLane 1 fun l => { l with mode := .unlocked }).lane 1).mode = .unlocked
      ∧ (site.lane 2).punch.isSome = true
      ∧ ((withLane 2 fun l => { l with punch := none }).lane 2).punch = none := by decide +kernel

theorem witness_TamperAndItsAlert :
    (site.awaitsReply 1 = true ∧ (site.lane 1).lastBit ≠ some true ∧ (site.lane 1).state ≠ .lost)
      ∧ ((site.lane 1).conditions.tamper = false ∧ (site.lane 1).changes.tamper = false)
      ∧ ((withLane 1 fun l => { l with conditions := { l.conditions with tamper := true } }).lane 1).conditions.tamper = true
      ∧ site.part.alertEnable = false
      ∧ ({ site with part := { site.part with alertEnable := true } } : State).link.alertMask.getLsbD 3 = true := by
  decide +kernel

theorem witness_LaneTimersExpire :
    (site.running = true ∧ (site.lane 2).state = .released ∧ (site.lane 2).releaseTimer = some 0)
      ∧ ((site.lane 2).punch.isSome = true ∧ ((withLane 2 fun l => { l with punch := none }).lane 2).punch = none)
      ∧ ((site.lane 3).state = .opened ∧ (site.lane 3).heldTimer = some 0 ∧ (site.lane 3).mode ≠ .unlocked
        ∧ site.evac.evacuating = false)
      ∧ ((withLane 3 fun l => { l with mode := .unlocked }).lane 3).mode = .unlocked := by decide +kernel

theorem witness_PunchesCommit :
    ((site.lane 2).punch.map fun p => p.direction) = some .inward
      ∧ ((site.worker 1).attendance.isSome = true ∧ (site.worker 2).attendance = none) := by decide

/-- A worked-minutes break is taken at the threshold, and not once it was taken; an out one second before the in time; a
night window that crosses midnight. -/
theorem witness_PairingStages :
    (tables.computePay worker640 attendance640 .out (1643760000 + 60730)).breakTaken = true
      ∧ attendance640.breakTaken = false ∧ 0 < (tables.shift 4).break_
      ∧ 60 * (tables.shift 4).threshold ≤ attendance640.carriedGross + 39600
      ∧ ({ attendance640 with breakTaken := true } : Attendance).breakTaken = true
      ∧ State.reset.part.nightStart = State.reset.part.nightEnd
      ∧ attendance640.inTime - 1 < attendance640.inTime
      ∧ (let s : State := { tables with part := { tables.part with nightStart := 1320, nightEnd := 360 } }
        s.part.nightStart ≠ s.part.nightEnd
          ∧ (s.computePay worker640 attendance640 .out 1643810400).roundedIn / 86400 = attendance640.dayKey) := by
  decide +kernel

/-- Rounding at the limits of the graces: an in at each limit and one second outside it. -/
theorem witness_RoundingAndTiers :
    let sh := tables.shift 4
    let a (t : Nat) : Attendance := { attendance640 with inTime := t }
    0 < sh.quantum
      ∧ ([1643781600 - 600, 1643781600 + 300, 1643781600 - 601, 1643781600 + 301].map fun t => roundIn sh (a t)) =
        [1643781600, 1643781600, 1643781600, 1643781600 + 900]
      ∧ ([1643810400 - 300, 1643810400 + 300, 1643810400 - 301, 1643810400 + 900].map fun t =>
          roundOut .out sh attendance640 t) =
        [1643810400, 1643810400, 1643810400 - 900, 1643810400 + 900] := by decide +kernel

theorem witness_PairingsAndExpiries :
    ((site.worker 1).attendance.isSome = true ∧ (site.worker 2).attendance = none)
      ∧ worker640.dayTally = some ⟨19024, 510⟩ ∧ worker640.weekTally = some ⟨tables.weekIndex 19025, 2160⟩
      ∧ (site.clock.weekdayOffset ≤ 6 ∧ site.part.weekStart ≤ 6)
      ∧ ((List.range 7).filter fun k =>
          decide (tables.weekIndex (19018 + k + 1) = tables.weekIndex (19018 + k) + 1)).length = 1 := by
  decide +kernel

theorem witness_CloseGathersAndBegins :
    (∀ c, Ready (.periodClose 1#8 c) site)
      ∧ (∀ p, Ready (.periodClose 1#8 8#16) (closing p none true) ∧ (closing p none true).close.phase = p)
      ∧ ((closing .gathering (some 0) true).close.phase = .gathering
        ∧ (closing .gathering (some 0) true).close.gatherTimer = some 0 ∧ (closing .gathering (some 0) true).running = true)
      ∧ (closing .gathering (some 0) false).clock.valid = false :=
  ⟨fun _ => ready_when, fun _ => ⟨ready_when, rfl⟩, ⟨rfl, rfl, rfl⟩, rfl⟩

theorem witness_CloseCancelActs :
    (Ready (.closeCancel 1#8) (closing .gathering (some 5) true)
      ∧ (closing .gathering (some 5) true).close.phase = .gathering)
      ∧ Ready (.closeCancel 1#8) site ∧ site.close.phase ≠ .gathering :=
  ⟨⟨ready_when, rfl⟩, ready_when, by decide⟩

/-- Records of every line of R132's table: 5 FREE, 1 to be split, 2 without an attendance, and marks, crews, PAYHOLD. -/
theorem witness_CloseReachesRecords :
    let s := closing .walking none true
    (s.running = true ∧ s.close.phase = .walking ∧ s.close.walkIndex < 4095)
      ∧ ({ s with close := { s.close with walkIndex := 4095 } } : State).close.walkIndex = 4095
      ∧ (s.worker 5).status = .free
      ∧ ((s.worker 1).status ≠ .free ∧ (s.worker 1).closeMark ≠ s.close.gen ∧ s.close.crews.getLsbD (s.worker 1).crew = true
        ∧ (s.worker 1).payhold = false
        ∧ (s.worker 1).attendance.map (fun a => decide (a.inTime < s.close.tClose)) = some true)
      ∧ ((s.worker 2).attendance = none ∧ (s.worker 2).closeMark ≠ s.close.gen)
      ∧ ({ s with close := { s.close with crews := 1#16 } } : State).close.crews.getLsbD (s.worker 1).crew = false
      ∧ ((s.setWorker 2 { s.worker 2 with payhold := true }).worker 2).payhold = true := by decide +kernel

/-- An arbiter that plays a cadence of priority 1 with a request of priority 0 waiting. -/
def playing : Arbiter := ⟨some ⟨0, Pattern.cold, 1, 0, .finite 1, some 0⟩, some ⟨0, 0⟩, false⟩

theorem witness_BellArbitration :
    fleeing.evac.evacuating = true ∧ site.evac.evacuating = false
      ∧ (∃ s : State, (s.pattern 0).segments.map (fun g => g.duration) = [30, 0, 0, 0, 0, 0, 0, 0])
      ∧ Arbiter.idle.active = none ∧ playing.active.map (fun c => c.priority) = some 1
      ∧ playing.waiting = some ⟨0, 0⟩ :=
  ⟨by decide +kernel, by decide,
    ⟨{ site with patterns := [(0, ⟨⟨true, 30⟩ :: List.replicate 7 ⟨false, 0⟩, 1⟩)] }, by decide⟩, rfl, rfl, rfl⟩

/-- Pattern 0 with a segment, pattern 1 empty: an empty request at an idle output, and one that preempts with pattern 0, then
an empty one, waiting. -/
theorem witness_BellArbitration_empty :
    let s : State := { site with patterns := [(0, ⟨⟨true, 30⟩ :: List.replicate 7 ⟨false, 0⟩, 1⟩)] }
    let q (waiting : Option BellRequest) : Arbiter := { playing with waiting := waiting }
    ((s.pattern 0).segments.map fun g => g.duration).head? = some 30
      ∧ ((s.pattern 1).segments.map fun g => g.duration).head? = some 0
      ∧ s.arbitrate Arbiter.idle ⟨1, 3⟩ = (Arbiter.idle, .active)
      ∧ (s.arbitrate (q (some ⟨0, 0⟩)) ⟨1, 3⟩).1.active.map (fun c => (c.pattern, c.timer)) = some (0, some 30)
      ∧ s.arbitrate (q (some ⟨1, 0⟩)) ⟨1, 3⟩ = (Arbiter.idle, .preempted)
      ∧ s.arbitrate (q none) ⟨1, 3⟩ = (Arbiter.idle, .preempted) := by decide +kernel

theorem witness_BellRingReaches :
    (∀ b o p q, Ready (.bellRing b 1#8 o p q) site) ∧ 15 < (16#8 : Byte).toNat ∧ 3 < (4#8 : Byte).toNat
      ∧ (15#8 : Byte).toNat ≤ 15 ∧ (3#8 : Byte).toNat ≤ 3 := by
  refine ⟨?_, by decide⟩
  rintro (_ | _) _ _ _ <;> exact ready_when

/-- A pattern of two segments, and `site` with output 3 playing it, its segment timer run out. -/
def chime : Pattern := ⟨⟨true, 30⟩ :: ⟨false, 10⟩ :: List.replicate 6 ⟨false, 0⟩, 2⟩

def chiming (segment : Nat) (passes : Passes) (waiting : Option BellRequest) : State :=
  { site with
    patterns := [(0, chime)], arbiters := [(3, ⟨some ⟨0, chime, 1, segment, passes, some 0⟩, waiting, false⟩)] }

theorem witness_BellsPlayOn :
    Ready (.bellSilence 1#8 15#8) site ∧ Ready (.bellStatus 1#8) site
      ∧ (chiming 0 (.finite 2) none).running = true
      ∧ ((chiming 0 (.finite 2) none).arbiter 3).active = some ⟨0, chime, 1, 0, .finite 2, some 0⟩
      ∧ chime.pass[0 + 1]? = some ⟨false, 10⟩ ∧ chime.pass[0]? = some ⟨true, 30⟩ ∧ chime.pass.length ≤ 1 + 1
      ∧ ((chiming 1 (.finite 1) (some ⟨0, 2⟩)).arbiter 3).waiting = some ⟨0, 2⟩
      ∧ ((chiming 1 (.finite 1) (some ⟨0, 2⟩)).pattern 0).segments = chime.segments
      ∧ ((chiming 1 .endless none).arbiter 3).active = some ⟨0, chime, 1, 1, .endless, some 0⟩
      ∧ (((chiming 1 (.finite 1) (some ⟨1, 2⟩)).pattern 1).segments.map fun g => g.duration).head? = some 0
      ∧ ((after (.segmentEnd 3) (chiming 1 (.finite 1) (some ⟨1, 2⟩))).arbiter 3) = Arbiter.idle
      ∧ ((chiming 0 (.finite 2) none).arbiter 0).active = none ∧ Pattern.cold.pass = [] :=
  ⟨ready_when, ready_when, by decide +kernel⟩

theorem witness_EvacuationStarts :
    Ready (.evacuate true 1#8) site ∧ Ready (.evacuate false 1#8) (withEvac fun e => { e with evacuating := true })
      ∧ site.evac.evacuating = false ∧ Table.wf Worker.zeroed site.workers = true
      ∧ ((withEvac fun e => { e with fireSamples := (true, true) }).evac.fireLevel = false)
      ∧ ((withEvac fun e => { e with chainSamples := (true, true) }).evac.chainLevel = false ∧ site.evac.armed = true
        ∧ site.evac.causes.fire = false ∧ site.evac.causes.command = false)
      ∧ (withEvac fun e => { e with chainSamples := (true, true), armed := false }).evac.armed = false
      ∧ (fleeing.running = true ∧ fleeing.evac.evacuating = true ∧ fleeing.evac.fireLevel = false)
      ∧ (let s := withEvac fun e => { e with evacuating := true, chainSamples := (true, true) }
        s.running = true ∧ s.evac.chainLevel = false ∧ s.evac.armed = true ∧ s.evac.causes.fire = false
          ∧ s.evac.causes.command = false ∧ (after .chainLevelActive s).evac.causes = ⟨false, false, true⟩) :=
  ⟨ready_when, ready_when, by decide +kernel⟩

theorem witness_EvacuationEnds :
    ((withEvac fun e => { e with fireLevel := true }).evac.fireLevel = true
      ∧ (withEvac fun e => { e with fireLevel := true }).evac.fireSamples = (false, false))
      ∧ ((withEvac fun e => { e with chainLevel := true }).evac.chainLevel = true
        ∧ (withEvac fun e => { e with chainLevel := true }).evac.chainSamples = (false, false))
      ∧ Ready (.evacuationClear 1#8) (withEvac fun e => { e with fireLevel := true })
      ∧ Ready (.evacuationClear 1#8) site
      ∧ Ready (.evacuationClear 1#8) (withEvac fun e => { e with evacuating := true })
      ∧ (Table.wf Worker.zeroed site.workers = true ∧ site.evac.fireLevel = false)
      ∧ (site.workers.all fun e => match e.2.attendance with
          | some a => decide (site.clock.gateTime < a.deadline)
          | none => true) = true
      ∧ (let s : State := { fleeing with clock := { fleeing.clock with gateTime := 1643270400 } }
        s.evac.fireLevel = false ∧ s.dueExpiries = [1]
          ∧ ((clearEvacuation s).journal.entries.drop s.journal.entries.length).map (fun e => e.body.kind) = [1, 5]) :=
  ⟨by decide, by decide, ready_when, ready_when,
    ready_when, by decide +kernel, by decide +kernel, by decide +kernel⟩

/-! ## The invariants hold in `site`, so that their step statements speak of it -/

theorem witness_StepsKeepConsistency : Consistent site ∧ step site = .next (millisecond site) := by
  have h : ∀ n, n < Config.laneCount → n ≠ 2 → (site.lane n).punch = none := by decide
  refine ⟨{
    workers := by decide +kernel
    free := fun i => site_worker (fun w => w.inUse = false → w = Worker.zeroed) (by decide) (by decide +kernel) i
    inside := by decide +kernel
    outside := fun i => site_worker (fun w => w.presence = .outside → w.attendance = none) (by decide)
      (by decide +kernel) i
    unset := fun h => absurd h (by decide)
    codes := by decide
    named := by decide
    punches := fun n p hn hp => ?_ }, rfl⟩
  by_cases h2 : n = 2
  · subst h2
    obtain rfl := Option.some.inj hp
    exact ⟨rfl, rfl, fun _ => rfl⟩
  · rw [h n hn h2] at hp; cases hp

theorem witness_StepsKeepTheRoll : RollAgrees fleeing ∧ fleeing.evac.unaccounted = 2
    ∧ step fleeing = .next (millisecond fleeing) := by
  have hw : fleeing.workers.map (fun e => e.1) = [1, 2, 3, 4] ∧ fleeing.workers.map (fun e => e.2.muster) =
      [.unaccounted, .none, .none, .unaccounted] := by decide +kernel
  refine ⟨⟨by decide +kernel, by decide +kernel, by decide +kernel, fun i hi => ?_⟩, by decide +kernel, rfl⟩
  rcases get_listed Worker.zeroed fleeing.workers i with h | h
  · unfold State.worker at hi; rw [h] at hi; cases hi
  · have : ∀ w ∈ fleeing.workers.map (fun e => e.2), w.inUse = true := by decide +kernel
    exact this _ h

theorem witness_StepsKeepTheBounds :
    Bounded brimming ∧ ClockRange (ticking (-1) 9 true 100).clock ∧ step brimming = .next (millisecond brimming) :=
  ⟨by constructor <;> decide +kernel, by constructor <;> decide, rfl⟩

theorem witness_StepsKeepTheLanes : LanesFit site ∧ step site = .next (millisecond site) := by
  refine ⟨⟨by decide +kernel, fun n hn => ?_⟩, rfl⟩
  have h : ∀ n, n < Config.laneCount → LaneFits (site.laneRecord n).enabled (site.lane n) := by
    intro n hn
    interval_cases n <;> constructor <;> decide
  exact h n hn

theorem witness_StepsKeepThePhases :
    PhasesAgree (withEvac fun e => { e with evacuating := true, fireLevel := true, causes := ⟨true, false, false⟩ })
      ∧ PhasesAgree (closing .walking none true) :=
  ⟨by constructor <;> decide, by constructor <;> decide⟩

theorem witness_StepsKeepTables : TablesCanonical site ∧ step site = .next (millisecond site) :=
  ⟨by constructor <;> decide +kernel, rfl⟩

end Sys2Proof.Tests
end

section
/-! SUPPORT. The dispatch as one equation: a request command is `takeRequest` over its owning block, and every other
command is its event's function. -/

namespace Sys2Proof.Proofs

open Machine Laws

/-- The block that answers a request command; none for an event. -/
def owningBlock : Instr → Option (State → Answer)
  | .describe _ => some describe
  | .statusRead _ clear => some (statusRead clear)
  | .alertMask _ mask enable => some (alertMaskSet mask enable)
  | .tableWrite _ table first count records => some (tableWrite table first count records)
  | .tableRead _ table first count => some (tableRead table first count)
  | .restart _ => some restartTaken
  | .timeSet _ _ time offset => some (timeSet time offset)
  | .timeSlew _ _ amount => some (timeSlew amount)
  | .timeRead _ => some timeRead
  | .workerSet _ index status crew rateClass flags => some (workerSet index status crew rateClass flags)
  | .workerFree _ index => some (workerFree index)
  | .presenceSet _ index presence => some (presenceSet index presence)
  | .workerRead _ first count => some (workerRead first count)
  | .badgeAdd _ code index => some (badgeAdd code index)
  | .badgeRemove _ code => some (badgeRemove code)
  | .badgeFind _ code => some (badgeFind code)
  | .badgeRead _ first count => some (badgeRead first count)
  | .laneCommandNormal _ lane => some (laneMode lane .normal)
  | .laneCommandLocked _ lane => some (laneMode lane .locked)
  | .laneCommandUnlocked _ lane => some (laneMode lane .unlocked)
  | .laneCommandPulse _ lane => some (lanePulse lane)
  | .laneCountersLatch _ selector => some (countersLatch selector)
  | .laneCountersRead _ selector => some (countersRead selector)
  | .laneCountersReset _ selector => some (countersReset selector)
  | .totalsLatch _ selector => some (totalsLatch selector)
  | .totalsRead _ first count => some (totalsRead first count)
  | .closedRead _ first count => some (closedRead first count)
  | .periodClose _ crews => some (periodClose crews)
  | .closeCancel _ => some closeCancel
  | .closeStatus _ => some closeStatus
  | .journalRead _ count => some (journalRead count)
  | .journalTrim _ count => some (journalTrim count)
  | .journalStatus _ clear => some (journalStatus clear)
  | .bellRing _ _ outputs pattern priority => some (bellRing outputs pattern priority)
  | .bellSilence _ outputs => some (bellSilence outputs)
  | .bellStatus _ => some bellStatus
  | .evacuate _ _ => some evacuateRequest
  | .evacuationClear _ => some evacuationClear
  | .musterRead _ first count => some (musterRead first count)
  | .musterList _ start => some (musterList start)
  | .unknownRequest request => some (unknownRequest request)
  | _ => none

/-- What an event command does; a request command is none. -/
def eventEffect : Instr → State → State
  | .downwardFrameReceived bytes => downwardReceived bytes
  | .upwardFrameReceived bytes => upwardReceived bytes
  | .downwardForwardSend => downwardSend
  | .upwardTransmit => transmit
  | .restartReplySent => restartReplySent
  | .tick100ms fire chain => tick fire chain
  | .secondTick => secondTick
  | .segmentEnd output => segmentEnd output
  | .pollTimerExpiry lane => pollExpiry lane
  | .headEmpty lane => headEmpty lane
  | .headPunch lane bit code key => headEvent lane bit (punchTaken lane code.toNat key)
  | .headDoorOpen lane bit => headEvent lane bit (doorOpened lane)
  | .headDoorClosed lane bit => headEvent lane bit (doorClosed lane)
  | .headTamperOn lane bit => headEvent lane bit (tamperTaken lane true)
  | .headTamperOff lane bit => headEvent lane bit (tamperTaken lane false)
  | .laneReplyBad lane => replyBad lane
  | .laneReplyMissed lane => replyMissed lane
  | .releaseTimerExpiry lane => releaseExpiry lane
  | .heldTimerExpiry lane => heldExpiry lane
  | .gatherTimerExpiry => gatherExpiry
  | .walkStep => walkStep
  | .fireActive => fireActive
  | .fireInactive => fireInactive
  | .chainLevelActive => chainActive
  | .chainLevelInactive => chainInactive
  | .powerUp => powerUp
  | .mainPowerLost => mainPowerLost
  | .resetInputActive => resetInput
  | .startComplete fire chain strap => startComplete fire chain strap
  | .retainedDomainLost => retainedLost
  | _ => id

/-- The state a command leads to. -/
def effect (i : Instr) (s : State) : State :=
  match owningBlock i with
  | some act => takeRequest i act s
  | none => eventEffect i s

/-- Every command answers a next state, and this one. -/
theorem exec_eq (i : Instr) (s : State) : exec i s = .next (effect i s) := by
  cases i <;> rfl

/-- A command that is executed to its end has led to its effect. -/
theorem eq_effect {i : Instr} {s t : State} (h : exec i s = .next t) : t = effect i s := by
  rw [exec_eq] at h
  exact (Host.Outcome.next.inj h).symm

/-- A property of states that every command and the passing of a millisecond keep is kept by every step; it may not speak
of the queue of waiting commands. -/
theorem step_keeps {P : State → Prop} (hq : ∀ s rest, P s → P { s with pending := rest })
    (hm : ∀ s, P s → P (millisecond s)) (he : ∀ i s, P s → P (effect i s)) {s t : State} (hs : P s)
    (h : step s = .next t) : P t := by
  unfold step at h
  split at h
  · cases h; exact hm s hs
  · next c rest _ => rw [eq_effect h]; exact he c _ (hq s rest hs)

end Sys2Proof.Proofs
end

section
/-! SUPPORT. Every command keeps the buffers, the journal and the badge map in their capacities (R50, R142, R187, R189 to
R193). -/

namespace Sys2Proof.Proofs

open Machine Laws

/-- What is quiet keeps the bounds. -/
theorem bounded_of_quiet {s t : State} (h : Bounded s) (q : Quiet s t) : Bounded t where
  requests := by rw [q.requests]; exact h.requests
  upQueue := by
    rcases q.queue with e | e
    · rw [e]; exact h.upQueue
    · exact e.trans (by decide)
  upForward := by rw [q.upForward]; exact h.upForward
  downForward := by rw [q.downForward]; exact h.downForward
  journal := q.journal h.journal
  badges := q.badges.elim id fun e => e.trans h.badges
  upPartial := by rw [q.upPartial]; exact h.upPartial
  downPartial := by rw [q.downPartial]; exact h.downPartial

/-- A quiet operation on a state that differs from `s` neither in the link nor in the entries nor in the badge map. -/
theorem quiet_from {s t u : State} (h : Quiet t u) (hl : t.link = s.link := by rfl)
    (he : t.journal.entries = s.journal.entries := by rfl) (hb : t.badges = s.badges := by rfl) : Quiet s u :=
  Quiet.trans (.same hl he hb) h

/-! ## The blocks that answer requests -/

/-- A block's answer is quiet, and one that sends frames replies with a single one (R192, R193). -/
structure QuietAnswer (s : State) (a : Answer) : Prop where
  quiet : Quiet s a.state
  reply : a.state.link.upQueue = s.link.upQueue ∨ a.data.length ≤ 238

section Blocks

variable {s t : State}

theorem answer_quiet {c : ReplyCode} (h : Quiet s t) : QuietAnswer s (answer c t) := ⟨h, .inr (by simp [answer])⟩

theorem answer_same {c : ReplyCode} : QuietAnswer s (answer c s) := answer_quiet (.refl s)

theorem returns_quiet {d : List Byte} : QuietAnswer s (returns d s) := ⟨.refl s, .inl rfl⟩

/-- An answer of any length whose state differs from `s` in no buffer. -/
theorem quietAnswer_of_link {c : ReplyCode} {d : List Byte} (h : Quiet s t) (hl : t.link.upQueue = s.link.upQueue) :
    QuietAnswer s ⟨t, c, d⟩ := ⟨h, .inl hl⟩

theorem statusRead_quiet (clear : Byte) : QuietAnswer s (statusRead clear s) := by
  unfold statusRead
  split
  · exact answer_same
  · next c _ => cases c <;> exact quietAnswer_of_link ⟨rfl, rfl, rfl, .inr le_rfl, .inl rfl, id, rfl, rfl⟩ rfl

theorem alertMaskSet_quiet (mask enable : Byte) : QuietAnswer s (alertMaskSet mask enable s) := by
  unfold alertMaskSet
  split
  · exact answer_same
  · exact answer_quiet ⟨rfl, rfl, rfl, .inr le_rfl, .inl rfl, id, rfl, rfl⟩

theorem enableLane_quiet {n : Nat} : Quiet s (enableLane n s) := setLane_quiet

theorem disableLane_quiet {n : Nat} : Quiet s (disableLane n s) :=
  endRelease_quiet.trans (setLane_quiet.trans setConditions_quiet)

theorem laneWritten_quiet {before : State} {n : Nat} : Quiet s (laneWritten before s n) := by
  unfold laneWritten
  split
  · exact enableLane_quiet
  · exact disableLane_quiet
  · exact .refl s

theorem writeLanes_quiet {first : Nat} {l : List LaneRecord} : Quiet s (writeLanes first l s) :=
  quiet_from
    (foldl_quiet (f := laneWritten s) (fun _ _ => laneWritten_quiet) _
      { s with laneTable := setRun LaneRecord.cold first l s.laneTable })

theorem writeRun_quiet (t : TableId) (first n : Nat) (records : List Byte) : QuietAnswer s (writeRun t first n records s) := by
  cases t <;> unfold writeRun <;> dsimp only
  case lane =>
    split
    · exact answer_quiet writeLanes_quiet
    · exact answer_same
  case part =>
    split
    · exact answer_quiet (quiet_from updateJournalConditions_quiet)
    · exact answer_same
  all_goals
    split
    · exact answer_quiet (.same rfl rfl rfl)
    · exact answer_same

theorem tableWrite_quiet (table first count : Byte) (records : List Byte) :
    QuietAnswer s (tableWrite table first count records s) := by
  unfold tableWrite
  split
  · exact answer_same
  · dsimp only
    split
    · exact answer_same
    split
    · exact answer_same
    · exact writeRun_quiet _ _ _ _

theorem tableRead_quiet (table first count : Byte) : QuietAnswer s (tableRead table first count s) := by
  unfold tableRead
  split
  · exact answer_same
  · dsimp only; split
    · exact answer_same
    · exact returns_quiet

theorem timeSet_quiet (time : Word) (offset : Byte) : QuietAnswer s (timeSet time offset s) := by
  unfold timeSet
  split
  · exact answer_same
  · exact answer_quiet (Quiet.trans (offerEntry_quiet (b := .clock s.now time.toNat)) (quiet_from takeExpiries_quiet))

theorem timeSlew_quiet (amount : Half) : QuietAnswer s (timeSlew amount s) := by
  unfold timeSlew
  split
  · exact answer_same
  · exact answer_quiet (.same rfl rfl rfl)

theorem workerSet_quiet (index : Half) (status crew rateClass flags : Byte) :
    QuietAnswer s (workerSet index status crew rateClass flags s) := by
  unfold workerSet
  dsimp only
  split
  · exact answer_same
  split
  · exact answer_same
  split
  · exact answer_same
  · exact answer_quiet setWorker_quiet

theorem workerFree_quiet (index : Half) : QuietAnswer s (workerFree index s) := by
  unfold workerFree
  dsimp only
  split
  · exact answer_same
  split
  · exact answer_same
  split
  · exact answer_same
  split
  · exact answer_same
  · exact answer_quiet ⟨rfl, rfl, rfl, .inr (List.length_filter_le _ _), .inl rfl, id, rfl, rfl⟩

theorem presenceSet_quiet (index : Half) (presence : Byte) : QuietAnswer s (presenceSet index presence s) := by
  unfold presenceSet
  dsimp only
  split
  · exact answer_same
  split
  · exact answer_same
  split
  · exact answer_same
  · exact answer_quiet (quiet_from offerEntry_quiet)

theorem badgeAdd_quiet (code : Word) (index : Half) : QuietAnswer s (badgeAdd code index s) := by
  unfold badgeAdd
  split
  · exact answer_same
  split
  · exact answer_same
  split
  · exact answer_same
  split
  · exact answer_same
  split
  · exact answer_same
  · next hcap =>
    refine answer_quiet ⟨rfl, rfl, rfl, .inl ?_, .inl rfl, id, rfl, rfl⟩
    rw [insertBadge_length]
    exact not_le.1 hcap

theorem badgeRemove_quiet (code : Word) : QuietAnswer s (badgeRemove code s) := by
  unfold badgeRemove
  split
  · exact answer_same
  split
  · exact answer_same
  · exact answer_quiet ⟨rfl, rfl, rfl, .inr (List.length_filter_le _ _), .inl rfl, id, rfl, rfl⟩

theorem badgeFind_quiet (code : Word) : QuietAnswer s (badgeFind code s) := by
  unfold badgeFind
  split
  · exact answer_same
  split
  · exact returns_quiet
  · exact answer_same

theorem laneMode_quiet (lane : Byte) (m : LaneMode) : QuietAnswer s (laneMode lane m s) := by
  unfold laneMode
  split
  · exact answer_same
  · exact answer_quiet setMode_quiet

theorem lanePulse_quiet (lane : Byte) : QuietAnswer s (lanePulse lane s) := by
  unfold lanePulse
  dsimp only
  split
  · exact answer_same
  split
  · exact answer_same
  split
  · exact answer_same
  split
  · exact answer_same
  split
  · exact answer_same
  · exact answer_quiet (Quiet.trans setLane_quiet offerEntry_quiet)

theorem countersLatch_quiet (selector : Byte) : QuietAnswer s (countersLatch selector s) := by
  unfold countersLatch
  split
  · exact answer_same
  · exact answer_quiet (foldl_quiet (fun _ _ => setLane_quiet) _ _)

theorem countersRead_quiet (selector : Byte) : QuietAnswer s (countersRead selector s) := by
  unfold countersRead
  split
  · exact answer_same
  · exact returns_quiet

theorem countersReset_quiet (selector : Byte) : QuietAnswer s (countersReset selector s) := by
  unfold countersReset
  split
  · exact answer_same
  · exact answer_quiet (foldl_quiet (fun _ _ => setLane_quiet) _ _)

theorem totalsLatch_quiet (selector : Half) : QuietAnswer s (totalsLatch selector s) := by
  unfold totalsLatch
  dsimp only
  split
  · exact quietAnswer_of_link (.same rfl rfl rfl) rfl
  split
  · exact quietAnswer_of_link (.same rfl rfl rfl) rfl
  · exact answer_same

/-- A request that reads a run of records is refused or answered from the state as it is. -/
theorem read_quiet (bad : Prop) [Decidable bad] (code : ReplyCode) (data : List Byte) :
    QuietAnswer s (if bad then answer code s else returns data s) := by
  split
  · exact answer_same
  · exact returns_quiet

theorem periodClose_quiet (crews : Half) : QuietAnswer s (periodClose crews s) := by
  unfold periodClose
  split
  · exact answer_same
  split
  · exact answer_quiet (.same rfl rfl rfl)
  · exact answer_quiet (.same rfl rfl rfl)
  · exact answer_same
  · exact answer_same

theorem closeCancel_quiet : QuietAnswer s (closeCancel s) := by
  unfold closeCancel
  split
  · exact answer_quiet (.same rfl rfl rfl)
  · exact answer_same

theorem trimJournal_quiet {n : Nat} : Quiet s (trimJournal n s) := by
  have h : Quiet s { s with journal := { s.journal with entries := s.journal.entries.drop n } } :=
    ⟨rfl, rfl, rfl, .inr le_rfl, .inl rfl, fun h => (List.drop_sublist ..).length_le.trans h, rfl, rfl⟩
  exact h.trans updateJournalConditions_quiet

theorem oldestBytes_length (s : State) : (oldestBytes s).length = 5 := by
  unfold oldestBytes stampBytes
  cases s.journal.entries <;> simp [be32]

theorem journalTrim_quiet (count : Half) : QuietAnswer s (journalTrim count s) := by
  unfold journalTrim
  dsimp only
  split
  · exact answer_same
  · exact ⟨trimJournal_quiet, .inr (by simp [oldestBytes_length, be16])⟩

theorem journalStatus_quiet (clear : Byte) : QuietAnswer s (journalStatus clear s) := by
  unfold journalStatus
  split
  · exact answer_same
  · next c _ => cases c <;> exact quietAnswer_of_link (.same rfl rfl rfl) rfl

theorem bellRing_quiet (outputs pattern priority : Byte) : QuietAnswer s (bellRing outputs pattern priority s) := by
  unfold bellRing
  split
  · exact answer_same
  · obtain ⟨⟨a, h⟩, -⟩ := ringOutputs_spec outputs ⟨pattern.toNat, priority.toNat⟩ s
    exact ⟨ringOutputs_quiet, .inl (by dsimp only; rw [h])⟩

theorem bellSilence_quiet (outputs : Byte) : QuietAnswer s (bellSilence outputs s) :=
  answer_quiet (foldl_quiet (fun _ _ => setArbiter_quiet) _ _)

theorem evacuationClear_quiet : QuietAnswer s (evacuationClear s) := by
  unfold evacuationClear
  split
  · exact answer_same
  split
  · exact answer_same
  · exact answer_quiet clearEvacuation_quiet

/-- Every block answers quietly. -/
theorem owningBlock_quiet {i : Instr} {act : State → Answer} (h : owningBlock i = some act) (s : State) :
    QuietAnswer s (act s) := by
  cases i <;> cases h
  case describe => exact returns_quiet
  case statusRead => exact statusRead_quiet _
  case alertMask => exact alertMaskSet_quiet _ _
  case tableWrite => exact tableWrite_quiet _ _ _ _
  case tableRead => exact tableRead_quiet _ _ _
  case restart => exact answer_quiet ⟨rfl, rfl, rfl, .inr le_rfl, .inl rfl, id, rfl, rfl⟩
  case timeSet => exact timeSet_quiet _ _
  case timeSlew => exact timeSlew_quiet _
  case timeRead => exact returns_quiet
  case workerSet => exact workerSet_quiet _ _ _ _ _
  case workerFree => exact workerFree_quiet _
  case presenceSet => exact presenceSet_quiet _ _
  case workerRead => exact read_quiet _ _ _
  case badgeAdd => exact badgeAdd_quiet _ _
  case badgeRemove => exact badgeRemove_quiet _
  case badgeFind => exact badgeFind_quiet _
  case badgeRead => exact read_quiet _ _ _
  case laneCommandNormal => exact laneMode_quiet _ _
  case laneCommandLocked => exact laneMode_quiet _ _
  case laneCommandUnlocked => exact laneMode_quiet _ _
  case laneCommandPulse => exact lanePulse_quiet _
  case laneCountersLatch => exact countersLatch_quiet _
  case laneCountersRead => exact countersRead_quiet _
  case laneCountersReset => exact countersReset_quiet _
  case totalsLatch => exact totalsLatch_quiet _
  case totalsRead => exact read_quiet _ _ _
  case closedRead => exact read_quiet _ _ _
  case periodClose => exact periodClose_quiet _
  case closeCancel => exact closeCancel_quiet
  case closeStatus => exact returns_quiet
  case journalRead => exact read_quiet _ _ _
  case journalTrim => exact journalTrim_quiet _
  case journalStatus => exact journalStatus_quiet _
  case bellRing => exact bellRing_quiet _ _ _
  case bellSilence => exact bellSilence_quiet _
  case bellStatus => exact returns_quiet
  case evacuate => exact answer_quiet takeCause_quiet
  case evacuationClear => exact evacuationClear_quiet
  case musterRead => exact read_quiet _ _ _
  case musterList => exact read_quiet _ _ _
  case unknownRequest => exact answer_same

end Blocks

/-! ## A request's course -/

section Course

variable {s : State}

theorem offerRequest_bounded (r : Request) (h : Bounded s) : Bounded (offerRequest r s) := by
  unfold offerRequest
  split
  · next hlen =>
    refine { h with requests := ?_ }
    simp only [List.length_append, List.length_singleton]
    omega
  · exact { h with }

theorem popRequest_bounded (h : Bounded s) : Bounded (popRequest s) :=
  { h with requests := (by simp only [popRequest, List.length_tail]; have := h.requests; omega) }

/-- A request that may be taken leaves room for the four frames of its reply, or for one after the alerts of its block
(R191, R193). -/
theorem finishRequest_bounded {r : Request} {a : Answer} (h : Bounded s) (hr : r.broadcast = true ∨ s.link.upQueue.length ≤ 4)
    (ha : QuietAnswer s a) : Bounded (finishRequest r a) := by
  have hb := bounded_of_quiet h ha.quiet
  unfold finishRequest
  split
  · exact hb
  · next hbr =>
    have hq : s.link.upQueue.length ≤ 4 := hr.resolve_left hbr
    refine { hb with upQueue := ?_ }
    simp only [queueReply, List.length_append, replyFrames_length]
    have h4 := replyParts_length_le 3 a.data
    rcases ha.reply with e | e
    · rw [e]; simp only [Config.upwardCap]; omega
    · have h1 : (replyParts 3 a.data).length = 1 := by simp [replyParts, e]
      rw [h1]
      rcases ha.quiet.queue with e | e
      · rw [e]; simp only [Config.upwardCap]; omega
      · exact Nat.succ_le_succ (e.trans (by decide))

theorem takeRequest_bounded (i : Instr) {act : State → Answer} (ha : ∀ u, QuietAnswer u (act u)) (h : Bounded s) :
    Bounded (takeRequest i act s) := by
  rcases takeRequest_cases i act s with e | ⟨r, s1, -, -, h1, e⟩
  · rw [e]; exact h
  · have hb : Bounded s1 := by
      rcases h1 with rfl | rfl
      · exact h
      · exact offerRequest_bounded r h
    rcases e with e | ⟨-, hmay, e⟩
    · rw [e]; exact hb
    · rw [e]
      refine finishRequest_bounded (popRequest_bounded hb) ?_ (ha _)
      simp only [mayTake, Bool.and_eq_true, Bool.or_eq_true, decide_eq_true_eq] at hmay
      exact hmay.2

end Course

/-! ## The two ports -/

section Ports

variable {s : State}

theorem frameError_bounded (h : Bounded s) : Bounded (frameError s) := { h with }

theorem forwardDrop_bounded (h : Bounded s) : Bounded (forwardDrop s) := { h with }

theorem forwardDown_bounded (raw : List Byte) (h : Bounded s) : Bounded (forwardDown raw s) := by
  unfold forwardDown
  split
  · next hlen =>
    refine { h with downForward := ?_ }
    simp only [List.length_append, List.length_singleton]
    omega
  · exact forwardDrop_bounded h

theorem forwardUp_bounded (raw : List Byte) (h : Bounded s) : Bounded (forwardUp raw s) := by
  unfold forwardUp
  split
  · next hlen =>
    refine { h with upForward := ?_ }
    simp only [List.length_append, List.length_singleton]
    omega
  · exact forwardDrop_bounded h

theorem goodDownward_bounded (f : Frame) (h : Bounded s) : Bounded (goodDownward f s) := by
  unfold goodDownward
  split
  · exact offerRequest_bounded _ h
  split
  · dsimp only; split
    · exact offerRequest_bounded _ (forwardDown_bounded _ h)
    · exact forwardDown_bounded _ h
  · exact forwardDown_bounded _ h

theorem downwardArrival_bounded (f : Option Frame) (h : Bounded s) : Bounded (downwardArrival s f) := by
  unfold downwardArrival
  split
  · split
    · exact frameError_bounded h
    · exact goodDownward_bounded _ h
  · exact frameError_bounded h

theorem upwardArrival_bounded (f : Option Frame) (h : Bounded s) : Bounded (upwardArrival s f) := by
  unfold upwardArrival
  split
  · split
    · exact forwardUp_bounded _ h
    · exact frameError_bounded h
  · exact frameError_bounded h

theorem downwardByte_bounded (b : Byte) (h : Bounded s) : Bounded (downwardByte s b) := by
  have h1 : Bounded { s with link := { s.link with upPartial := (receiveByte s.link.upPartial b).1 } } :=
    { h with upPartial := receiveByte_length h.upPartial }
  unfold downwardByte
  dsimp only
  split
  · exact downwardArrival_bounded _ h1
  · exact h1

theorem upwardByte_bounded (b : Byte) (h : Bounded s) : Bounded (upwardByte s b) := by
  have h1 : Bounded { s with link := { s.link with downPartial := (receiveByte s.link.downPartial b).1 } } :=
    { h with downPartial := receiveByte_length h.downPartial }
  unfold upwardByte
  dsimp only
  split
  · exact upwardArrival_bounded _ h1
  · exact h1

/-- A fold of steps that keep the bounds keeps them. -/
theorem foldl_bounded {β : Type} {f : State → β → State} (hf : ∀ s b, Bounded s → Bounded (f s b)) (l : List β)
    (h : Bounded s) : Bounded (l.foldl f s) :=
  List.foldlRecOn l f h fun s hs b _ => hf s b hs

theorem downwardReceived_bounded (l : List Byte) (h : Bounded s) : Bounded (downwardReceived l s) := by
  unfold downwardReceived
  split
  · exact foldl_bounded (fun _ b => downwardByte_bounded b) l h
  · exact h

theorem upwardReceived_bounded (l : List Byte) (h : Bounded s) : Bounded (upwardReceived l s) := by
  unfold upwardReceived
  split
  · exact foldl_bounded (fun _ b => upwardByte_bounded b) l h
  · exact h

theorem downwardSend_bounded (h : Bounded s) : Bounded (downwardSend s) := by
  unfold downwardSend
  split
  · split
    · next f rest e =>
      have := h.downForward
      rw [e, List.length_cons] at this
      exact { h with downForward := (by dsimp only; omega) }
    · exact h
  · exact h

theorem transmitFrom_bounded (src : UpSource) (h : Bounded s) : Bounded (transmitFrom src s) := by
  unfold transmitFrom
  split
  · split
    · next f rest e =>
      have := h.upQueue
      rw [e, List.length_cons] at this
      exact { h with upQueue := (by dsimp only; omega) }
    · exact h
  · split
    · next f rest e =>
      have := h.upForward
      rw [e, List.length_cons] at this
      exact { h with upForward := (by dsimp only; omega) }
    · exact h

theorem transmit_bounded (h : Bounded s) : Bounded (transmit s) := by
  unfold transmit
  split
  · split
    · exact transmitFrom_bounded _ h
    · exact h
  · exact h

end Ports

/-! ## Events of the blocks -/

section Events

variable {s : State}

theorem millisecond_quiet : Quiet s (millisecond s) := by
  unfold millisecond
  split
  · dsimp only; split <;> exact .same rfl rfl rfl
  · exact .refl s

theorem tick_quiet {fire chain : Bool} : Quiet s (tick fire chain s) := by
  unfold tick
  split
  · exact .same rfl rfl rfl
  split
  · exact .same rfl rfl rfl
  · exact .refl s

theorem secondTick_quiet : Quiet s (secondTick s) := by
  unfold secondTick
  split
  · dsimp only
    split
    · exact quiet_from (Quiet.trans (fireBells_quiet (s := { s with clock := s.clock.second })) takeExpiries_quiet)
    · exact .same rfl rfl rfl
  · exact .refl s

theorem segmentEnd_quiet {o : Nat} : Quiet s (segmentEnd o s) := by
  unfold segmentEnd
  dsimp only
  split
  · split
    · split
      · exact setArbiter_quiet
      · exact .refl s
    · exact .refl s
  · exact .refl s

theorem pollExpiry_quiet {n : Nat} : Quiet s (pollExpiry n s) := by
  unfold pollExpiry
  dsimp only
  split
  · exact setLane_quiet
  · exact .refl s

theorem headEmpty_quiet {n : Nat} : Quiet s (headEmpty n s) := by
  unfold headEmpty
  split
  · exact setLane_quiet.trans goodReply_quiet
  · exact .refl s

theorem replyMissed_quiet {n : Nat} : Quiet s (replyMissed n s) := by
  unfold replyMissed
  dsimp only
  split
  · exact setLane_quiet.trans missedReply_quiet
  · exact .refl s

theorem replyBad_quiet {n : Nat} : Quiet s (replyBad n s) := by
  unfold replyBad
  dsimp only
  split
  · exact setLane_quiet.trans (setLane_quiet.trans missedReply_quiet)
  · exact .refl s

theorem releaseExpiry_quiet {n : Nat} : Quiet s (releaseExpiry n s) := by
  unfold releaseExpiry
  dsimp only
  split
  · exact endRelease_quiet
  · exact .refl s

theorem heldExpiry_quiet {n : Nat} : Quiet s (heldExpiry n s) := by
  unfold heldExpiry
  dsimp only
  split
  · split
    · exact setLane_quiet.trans (setConditions_quiet.trans offerEntry_quiet)
    · exact setLane_quiet
  · exact .refl s

theorem gatherExpiry_quiet : Quiet s (gatherExpiry s) := by
  unfold gatherExpiry
  split
  · split
    · exact quiet_from offerEntry_quiet
    · exact quiet_from flagCloseDone_quiet
  · exact .refl s

theorem endWalk_quiet : Quiet s (endWalk s) := by
  unfold endWalk
  extract_lets closing s1 c
  exact quiet_from (t := s1) (offerEntry_quiet.trans flagCloseDone_quiet)

theorem walkStep_quiet : Quiet s (walkStep s) := by
  unfold walkStep
  split
  · extract_lets i s1 counts s2
    have h1 : Quiet s s1 := .ofPays (reachRecord_pays _ _ _)
    have h2 : Quiet s1 s2 := .same rfl rfl rfl
    clear_value s1 s2
    split
    · exact h1.trans (h2.trans endWalk_quiet)
    · exact h1.trans h2
  · exact .refl s

theorem fireActive_quiet : Quiet s (fireActive s) := by
  unfold fireActive
  split
  · exact quiet_from takeCause_quiet
  · exact .refl s

theorem fireInactive_quiet : Quiet s (fireInactive s) := by
  unfold fireInactive
  split
  · exact .same rfl rfl rfl
  · exact .refl s

theorem chainActive_quiet : Quiet s (chainActive s) := by
  unfold chainActive
  split
  · exact quiet_from takeChain_quiet
  · exact .refl s

theorem chainInactive_quiet : Quiet s (chainInactive s) := by
  unfold chainInactive
  split
  · exact .same rfl rfl rfl
  · exact .refl s

theorem restartReplySent_quiet : Quiet s (restartReplySent s) := by
  unfold restartReplySent
  split
  · exact .same rfl rfl rfl
  · exact .refl s

theorem powerUp_quiet : Quiet s (powerUp s) := by
  unfold powerUp
  split
  · exact .refl s
  split <;> exact .same rfl rfl rfl

theorem mainPowerLost_quiet : Quiet s (mainPowerLost s) := by
  unfold mainPowerLost
  split
  · exact .same rfl rfl rfl
  · exact .refl s

theorem retainedLost_quiet : Quiet s (retainedLost s) := by
  unfold retainedLost
  split
  · exact .refl s
  · exact .same rfl rfl rfl

/-- The start values empty every buffer; journal and badge map stand (R188, R205). -/
theorem startValues_bounded (k : StartKind) (strap : BitVec 5) (h : Bounded s) : Bounded (startValues k strap s) where
  requests := by simp [startValues]
  upQueue := by simp [startValues]
  upForward := by simp [startValues]
  downForward := by simp [startValues]
  journal := h.journal
  badges := h.badges
  upPartial := by simp [startValues]
  downPartial := by simp [startValues]

theorem restoreEvacuation_quiet {fire chain : Bool} : Quiet s (restoreEvacuation fire chain s) := by
  unfold restoreEvacuation
  extract_lets s1 s2 s3
  have h1 : Quiet s s1 := .same rfl rfl rfl
  have h2 : Quiet s1 s2 := by
    unfold s2; split
    · exact soundTone_quiet.trans flagEvacuating_quiet
    · exact .refl s1
  have h3 : Quiet s2 s3 := by
    unfold s3; split
    · exact takeCause_quiet
    · exact .refl s2
  exact h1.trans (h2.trans (h3.trans takeChain_quiet))

theorem coldDomain_bounded : Bounded (coldDomain s) := by
  constructor <;> simp [coldDomain, State.reset]

theorem completeStart_bounded (k : StartKind) (fire chain : Bool) (strap : BitVec 5) (h : Bounded s) :
    Bounded (completeStart k fire chain strap s) := by
  refine bounded_of_quiet (startValues_bounded k strap h) ?_
  refine Quiet.trans (t := restoreClose (startValues k strap s)) (.same rfl rfl rfl) ?_
  exact takeExpiries_quiet.trans (restoreEvacuation_quiet.trans flagJournal_quiet)

theorem startComplete_bounded (fire chain : Bool) (strap : BitVec 5) (h : Bounded s) :
    Bounded (startComplete fire chain strap s) := by
  unfold startComplete
  split
  · exact h
  split
  · refine completeStart_bounded _ _ _ _ ?_
    split
    · exact coldDomain_bounded
    · exact h
  · exact h

end Events

/-- Every event command keeps the bounds. -/
theorem eventEffect_bounded (i : Instr) {s : State} (h : Bounded s) : Bounded (eventEffect i s) := by
  cases i
  case downwardFrameReceived l => exact downwardReceived_bounded l h
  case upwardFrameReceived l => exact upwardReceived_bounded l h
  case downwardForwardSend => exact downwardSend_bounded h
  case upwardTransmit => exact transmit_bounded h
  case startComplete => exact startComplete_bounded _ _ _ h
  all_goals refine bounded_of_quiet h ?_
  case restartReplySent => exact restartReplySent_quiet
  case tick100ms => exact tick_quiet
  case secondTick => exact secondTick_quiet
  case segmentEnd => exact segmentEnd_quiet
  case pollTimerExpiry => exact pollExpiry_quiet
  case headEmpty => exact headEmpty_quiet
  case headPunch => exact headEvent_quiet fun _ => punchTaken_quiet
  case headDoorOpen => exact headEvent_quiet fun _ => doorOpened_quiet
  case headDoorClosed => exact headEvent_quiet fun _ => doorClosed_quiet
  case headTamperOn => exact headEvent_quiet fun _ => setConditions_quiet
  case headTamperOff => exact headEvent_quiet fun _ => setConditions_quiet
  case laneReplyBad => exact replyBad_quiet
  case laneReplyMissed => exact replyMissed_quiet
  case releaseTimerExpiry => exact releaseExpiry_quiet
  case heldTimerExpiry => exact heldExpiry_quiet
  case gatherTimerExpiry => exact gatherExpiry_quiet
  case walkStep => exact walkStep_quiet
  case fireActive => exact fireActive_quiet
  case fireInactive => exact fireInactive_quiet
  case chainLevelActive => exact chainActive_quiet
  case chainLevelInactive => exact chainInactive_quiet
  case powerUp => exact powerUp_quiet
  case mainPowerLost => exact mainPowerLost_quiet
  case resetInputActive => exact .same rfl rfl rfl
  case retainedDomainLost => exact retainedLost_quiet
  all_goals exact .refl s

/-- Every command keeps the bounds. -/
theorem effect_bounded (i : Instr) {s : State} (h : Bounded s) : Bounded (effect i s) := by
  unfold effect
  split
  · next act e => exact takeRequest_bounded i (owningBlock_quiet e) h
  · exact eventEffect_bounded i h

end Sys2Proof.Proofs
end

section
/-! SUPPORT. Which commands move the clock: each operation that leaves it alone, and the course of the clock under every
command (chapter 1, R205). -/

namespace Sys2Proof.Proofs

open Machine Laws

/-! ## Operations that leave the clock -/

section Frame

variable (s : State)

/-- A fold of operations that leave the clock leaves it. -/
theorem foldl_clock {β : Type} {f : State → β → State} (hf : ∀ s b, (f s b).clock = s.clock) (l : List β) :
    (l.foldl f s).clock = s.clock := by
  induction l generalizing s with
  | nil => rfl
  | cons b l ih => rw [List.foldl_cons, ih, hf]

/-- Sending frames leaves the clock. -/
theorem sends_clock {s t : State} (h : Sends s t) : t.clock = s.clock := by
  obtain ⟨q, rfl, -⟩ := h
  rfl

@[simp] theorem updateJournalConditions_clock (b : State) : (updateJournalConditions b s).clock = s.clock :=
  (sends_clock (updateJournalConditions_spec b s) :)
@[simp] theorem flagJournal_clock (h f : Bool) : (flagJournal h f s).clock = s.clock := (sends_clock (flagJournal_spec h f s) :)
@[simp] theorem flagEvacuating_clock : (flagEvacuating s).clock = s.clock := (sends_clock (flagEvacuating_spec s) :)
@[simp] theorem flagCloseDone_clock : (flagCloseDone s).clock = s.clock := (sends_clock (flagCloseDone_spec s) :)
@[simp] theorem setPresence_clock (i : Nat) (p : Presence) : (setPresence i p s).clock = s.clock := rfl
@[simp] theorem reachRecord_clock (i : Nat) (p : Presence) : (reachRecord i p s).clock = s.clock :=
  (reachRecord_pays i p s).clock
@[simp] theorem takeExpiries_clock : (takeExpiries s).clock = s.clock := (takeExpiries_pays s).clock
@[simp] theorem commitPunch_clock (n : Nat) (p : ReleasedPunch) (free : Bool) : (commitPunch n p free s).clock = s.clock :=
  (commitPunch_pays n p free s).clock

@[simp] theorem ringOutputs_clock (m : Byte) (r : BellRequest) : (ringOutputs m r s).clock = s.clock :=
  foldl_clock (f := ringOutput r) s (fun _ _ => rfl) _
@[simp] theorem fireEntry_clock (t i : Nat) : (fireEntry t s i).clock = s.clock := by
  unfold fireEntry
  dsimp only
  split
  · exact ringOutputs_clock s _ _
  · rfl
@[simp] theorem fireBells_clock (p n : Nat) : (fireBells p n s).clock = s.clock :=
  foldl_clock (f := fireAt) s (fun u t => foldl_clock (f := fireEntry t) u (fun v i => fireEntry_clock v t i) _) _
@[simp] theorem soundTone_clock : (soundTone s).clock = s.clock := by
  obtain ⟨⟨a, h⟩, -⟩ := soundTone_spec s
  rw [h]
@[simp] theorem suspendClose_clock : (suspendClose s).clock = s.clock := by unfold suspendClose; split <;> rfl
@[simp] theorem resumeClose_clock : (resumeClose s).clock = s.clock := by unfold resumeClose; split <;> rfl
@[simp] theorem buildRoll_clock : (buildRoll s).clock = s.clock := rfl

/-! ### Lanes -/

@[simp] theorem endExchange_clock (n : Nat) : (endExchange n s).clock = s.clock := rfl
@[simp] theorem sendVerdict_clock (n : Nat) (v : Verdict) (d : Nat) : (sendVerdict n v d s).clock = s.clock := rfl
@[simp] theorem openLane_clock (n : Nat) : (openLane n s).clock = s.clock := rfl
@[simp] theorem releaseLane_clock (n : Nat) (p : Option ReleasedPunch) : (releaseLane n p s).clock = s.clock := rfl
@[simp] theorem stampPunch_clock (n i : Nat) : (stampPunch n i s).clock = s.clock := rfl

@[simp] theorem loseLane_clock (n : Nat) : (loseLane n s).clock = s.clock := by
  unfold loseLane
  simp only [setConditions_clock, setLane_clock]
  split <;> simp
@[simp] theorem missedReply_clock (n : Nat) : (missedReply n s).clock = s.clock := by
  unfold missedReply
  dsimp only
  split
  · rfl
  · split <;> simp
@[simp] theorem goodReply_clock (n : Nat) : (goodReply n s).clock = s.clock := by
  unfold goodReply
  dsimp only
  split
  · split <;> simp
  · rfl

theorem headEvent_clock (n : Nat) (bit : Bool) {act : State → State} (h : ∀ u, (act u).clock = u.clock) :
    (headEvent n bit act s).clock = s.clock := by
  unfold headEvent
  split
  · dsimp only
    split
    · simp
    · split <;> simp [h]
  · rfl

@[simp] theorem refusePunch_clock (n c : Nat) (k : HeadKey) (r : Reason) : (refusePunch n c k r s).clock = s.clock := by
  unfold refusePunch
  simp only [offerEntry_clock, setLane_clock, sendVerdict_clock]
  split
  · split <;> simp
  · rfl
@[simp] theorem musterPunch_clock (n c : Nat) : (musterPunch n c s).1.clock = s.clock := by
  unfold musterPunch
  split
  · simp
  · simp only [offerEntry_clock]
    split <;> rfl
@[simp] theorem evaluatePunch_clock (n c : Nat) (k : HeadKey) : (evaluatePunch n c k s).clock = s.clock := by
  unfold evaluatePunch
  split
  · dsimp only; split <;> simp
  · simp
  · rfl
  · simp
@[simp] theorem punchTaken_clock (n c : Nat) (k : HeadKey) : (punchTaken n c k s).clock = s.clock := by
  unfold punchTaken
  split
  · simp
  · split <;> simp
  · rfl
@[simp] theorem doorOpened_clock (n : Nat) : (doorOpened n s).clock = s.clock := by
  unfold doorOpened
  dsimp only
  split
  · split <;> simp
  · split <;> simp
  · rfl
@[simp] theorem doorClosed_clock (n : Nat) : (doorClosed n s).clock = s.clock := by
  unfold doorClosed
  dsimp only
  split <;> simp
@[simp] theorem setMode_clock (n : Nat) (m : LaneMode) : (setMode n m s).clock = s.clock := by
  unfold setMode
  dsimp only
  split
  · simp
  · split <;> rfl
@[simp] theorem laneWritten_clock (before : State) (n : Nat) : (laneWritten before s n).clock = s.clock := by
  unfold laneWritten
  split
  · rfl
  · unfold disableLane; simp
  · rfl
@[simp] theorem writeLanes_clock (first : Nat) (l : List LaneRecord) : (writeLanes first l s).clock = s.clock :=
  foldl_clock (f := laneWritten s) { s with laneTable := setRun LaneRecord.cold first l s.laneTable }
    (fun u n => laneWritten_clock u s n) _

/-! ### Evacuation -/

@[simp] theorem evacuateLane_clock (n : Nat) : (evacuateLane s n).clock = s.clock := by
  unfold evacuateLane; split <;> simp
@[simp] theorem restartHeld_clock (n : Nat) : (restartHeld s n).clock = s.clock := by
  unfold restartHeld; split <;> rfl
@[simp] theorem startEvacuation_clock (c : Cause) : (startEvacuation c s).clock = s.clock := by
  unfold startEvacuation
  simp only [flagEvacuating_clock, offerEntry_clock, suspendClose_clock, soundTone_clock, buildRoll_clock]
  exact foldl_clock (f := evacuateLane) _ evacuateLane_clock _
@[simp] theorem takeCause_clock (c : Cause) : (takeCause c s).clock = s.clock := by
  unfold takeCause; split <;> simp
@[simp] theorem takeChain_clock : (takeChain s).clock = s.clock := by
  unfold takeChain; split <;> simp
@[simp] theorem clearEvacuation_clock : (clearEvacuation s).clock = s.clock := by
  unfold clearEvacuation
  extract_lets control s1 s2 s3 s4 s5
  have h2 : s2.clock = s.clock := rfl
  clear_value s2
  have h3 : s3.clock = s2.clock := foldl_clock (f := restartHeld) s2 restartHeld_clock laneNumbers
  clear_value s3
  have h4 : s4.clock = s3.clock := resumeClose_clock (idleBells s3)
  clear_value s4
  simp [s5, h4, h3, h2]
@[simp] theorem restoreEvacuation_clock (fire chain : Bool) : (restoreEvacuation fire chain s).clock = s.clock := by
  unfold restoreEvacuation
  simp only [takeChain_clock]
  split <;> (try rw [takeCause_clock]) <;> split <;> simp

end Frame

/-! ## The course of the clock -/

/-- What a command makes of the clock of `s`. -/
inductive ClockCourse (s : State) : Instr → Clock → Prop
  | stands (i : Instr) : ClockCourse s i s.clock
  | set (b : Bool) (tag : Byte) (time : Word) (offset : Byte) (h : offset.toNat ≤ 6) :
      ClockCourse s (.timeSet b tag time offset) (s.clock.setTo time.toNat offset.toNat)
  | slewed (b : Bool) (tag : Byte) (amount : Half) :
      ClockCourse s (.timeSlew b tag amount) { s.clock with slew := clampSlew amount.toInt, slewPhase := 0 }
  | ticked (fire chain : Bool) (count : Word) :
      ClockCourse s (.tick100ms fire chain) { s.clock.tick with tickCount := count }
  | second : ClockCourse s .secondTick s.clock.second
  | started (fire chain : Bool) (strap : BitVec 5) :
      ClockCourse s (.startComplete fire chain strap) { s.clock with tickCount := 0 }
  | cold (fire chain : Bool) (strap : BitVec 5) (h : s.power.starting = some .cold) :
      ClockCourse s (.startComplete fire chain strap) Clock.cold

/-- What holds of the clock as it stands and as the block leaves it holds after the request's command. -/
theorem takeRequest_clock {P : Clock → Prop} (i : Instr) {act : State → Answer} {s : State} (h : P s.clock)
    (ha : ∀ u : State, u.clock = s.clock → P (act u).state.clock) : P (takeRequest i act s).clock := by
  have offered : ∀ r, (offerRequest r s).clock = s.clock := fun r => by unfold offerRequest; split <;> rfl
  rcases takeRequest_cases i act s with e | ⟨r, s1, -, -, h1, e⟩
  · rw [e]; exact h
  · have hc : s1.clock = s.clock := by
      rcases h1 with rfl | rfl
      · rfl
      · exact offered r
    rcases e with e | ⟨-, -, e⟩
    · rw [e, hc]; exact h
    · have hf : (finishRequest r (act (popRequest s1))).clock = (act (popRequest s1)).state.clock := by
        unfold finishRequest; split <;> rfl
      rw [e, hf]
      exact ha _ hc

/-- A block other than the Gate Clock's two that write it leaves the clock. -/
theorem owningBlock_clock {i : Instr} {act : State → Answer} (h : owningBlock i = some act)
    (h1 : ∀ b tag time offset, i ≠ .timeSet b tag time offset) (h2 : ∀ b tag amount, i ≠ .timeSlew b tag amount)
    (u : State) : (act u).state.clock = u.clock := by
  cases i <;> cases h
  case timeSet => exact absurd rfl (h1 _ _ _ _)
  case timeSlew => exact absurd rfl (h2 _ _ _)
  case statusRead =>
    unfold statusRead; split
    · rfl
    · split <;> rfl
  case alertMask => unfold alertMaskSet; split <;> rfl
  case tableWrite =>
    unfold tableWrite; split
    · rfl
    · dsimp only
      split
      · rfl
      split
      · rfl
      · unfold writeRun; split <;> split <;> simp [answer]
  case tableRead =>
    unfold tableRead; split
    · rfl
    · dsimp only; split <;> rfl
  case workerSet =>
    unfold workerSet; dsimp only
    split
    · rfl
    split
    · rfl
    split <;> rfl
  case workerFree =>
    unfold workerFree; dsimp only
    split
    · rfl
    split
    · rfl
    split
    · rfl
    split <;> rfl
  case presenceSet =>
    unfold presenceSet; dsimp only
    split
    · rfl
    split
    · rfl
    split
    · rfl
    · simp [answer]
  case badgeAdd =>
    unfold badgeAdd
    split
    · rfl
    split
    · rfl
    split
    · rfl
    split
    · rfl
    split <;> rfl
  case badgeRemove =>
    unfold badgeRemove
    split
    · rfl
    split <;> rfl
  case badgeFind =>
    unfold badgeFind
    split
    · rfl
    split <;> rfl
  case laneCommandNormal => unfold laneMode; split <;> simp [answer]
  case laneCommandLocked => unfold laneMode; split <;> simp [answer]
  case laneCommandUnlocked => unfold laneMode; split <;> simp [answer]
  case laneCommandPulse =>
    unfold lanePulse; dsimp only
    split
    · rfl
    split
    · rfl
    split
    · rfl
    split
    · rfl
    split
    · rfl
    · simp [answer]
  case laneCountersLatch =>
    unfold countersLatch; split
    · rfl
    · exact foldl_clock (f := latchLane) u (fun _ _ => rfl) _
  case laneCountersRead => unfold countersRead; split <;> rfl
  case laneCountersReset =>
    unfold countersReset; split
    · rfl
    · exact foldl_clock (f := resetLane) u (fun _ _ => rfl) _
  case totalsLatch =>
    unfold totalsLatch; dsimp only
    split
    · rfl
    split <;> rfl
  case totalsRead => unfold totalsRead; split <;> rfl
  case closedRead => unfold closedRead; split <;> rfl
  case workerRead => unfold workerRead; split <;> rfl
  case badgeRead => unfold badgeRead; split <;> rfl
  case musterRead => unfold musterRead; split <;> rfl
  case musterList => unfold musterList; split <;> rfl
  case periodClose =>
    unfold periodClose; split
    · rfl
    split <;> rfl
  case closeCancel => unfold closeCancel; split <;> rfl
  case journalRead => unfold journalRead; split <;> rfl
  case journalTrim =>
    unfold journalTrim; dsimp only; split
    · rfl
    · simp [trimJournal]
  case journalStatus =>
    unfold journalStatus; split
    · rfl
    · split <;> rfl
  case bellRing =>
    unfold bellRing; split
    · rfl
    · exact ringOutputs_clock _ _ _
  case bellSilence outputs =>
    exact foldl_clock (f := fun t o => t.setArbiter o u.silencedArbiter) u (fun _ _ => rfl) _
  case evacuate => simp [evacuateRequest, answer]
  case evacuationClear =>
    unfold evacuationClear
    split
    · rfl
    split
    · rfl
    · simp [answer]
  all_goals rfl

/-- The clock after a request's command. -/
theorem request_clock {i : Instr} {act : State → Answer} (h : owningBlock i = some act) (s : State) :
    ClockCourse s i (takeRequest i act s).clock := by
  refine takeRequest_clock i (.stands i) fun u hu => ?_
  by_cases h1 : ∃ b tag time offset, i = .timeSet b tag time offset
  · obtain ⟨b, tag, time, offset, rfl⟩ := h1
    cases h
    unfold timeSet
    split
    · exact hu ▸ .stands _
    · next hle => simpa [answer, hu] using ClockCourse.set b tag time offset (not_lt.1 hle)
  by_cases h2 : ∃ b tag amount, i = .timeSlew b tag amount
  · obtain ⟨b, tag, amount, rfl⟩ := h2
    cases h
    unfold timeSlew
    split
    · exact hu ▸ .stands _
    · simpa [answer, hu] using ClockCourse.slewed b tag amount
  · rw [owningBlock_clock h (fun b tag time offset e => h1 ⟨b, tag, time, offset, e⟩)
      (fun b tag amount e => h2 ⟨b, tag, amount, e⟩), hu]
    exact .stands i

theorem tick_clock (fire chain : Bool) (s : State) : ClockCourse s (.tick100ms fire chain) (tick fire chain s).clock := by
  unfold tick
  split
  · exact .ticked _ _ _
  split
  · exact .ticked _ _ s.clock.tick.tickCount
  · exact .stands _

theorem secondTick_clock (s : State) : ClockCourse s .secondTick (secondTick s).clock := by
  unfold secondTick
  split
  · dsimp only
    split
    · simpa [advanceEvent] using ClockCourse.second
    · exact .second
  · exact .stands _

/-- A start that completes keeps the clock but for its tick count. -/
theorem completeStart_clock (k : StartKind) (fire chain : Bool) (strap : BitVec 5) (s : State) :
    (completeStart k fire chain strap s).clock = { s.clock with tickCount := 0 } := by
  simp [completeStart, restoreJournal, restoreClose, startValues]

theorem startComplete_clock (fire chain : Bool) (strap : BitVec 5) (s : State) :
    ClockCourse s (.startComplete fire chain strap) (startComplete fire chain strap s).clock := by
  unfold startComplete
  split
  · exact .stands _
  · next k hk =>
    split
    · rw [completeStart_clock]
      split
      · next hc => exact .cold _ _ _ (hc ▸ hk)
      · exact .started _ _ _
    · exact .stands _

/-- An event other than a tick, a second tick and the end of a start leaves the clock. -/
theorem eventEffect_clock {i : Instr} (h1 : ∀ fire chain, i ≠ .tick100ms fire chain) (h2 : i ≠ .secondTick)
    (h3 : ∀ fire chain strap, i ≠ .startComplete fire chain strap) (s : State) :
    (eventEffect i s).clock = s.clock := by
  cases i <;> dsimp only [eventEffect]
  case tick100ms => exact absurd rfl (h1 _ _)
  case secondTick => exact absurd rfl h2
  case startComplete => exact absurd rfl (h3 _ _ _)
  case downwardFrameReceived l => obtain ⟨k, h⟩ := downwardReceived_form (s := s) l; rw [h]
  case upwardFrameReceived l => obtain ⟨k, h⟩ := upwardReceived_form (s := s) l; rw [h]
  case downwardForwardSend =>
    unfold downwardSend; split
    · split <;> rfl
    · rfl
  case upwardTransmit =>
    unfold transmit; split
    · split
      · unfold transmitFrom; split <;> split <;> rfl
      · rfl
    · rfl
  case restartReplySent => unfold restartReplySent; split <;> rfl
  case segmentEnd =>
    unfold segmentEnd; dsimp only
    split
    · split
      · split <;> rfl
      · rfl
    · rfl
  case pollTimerExpiry => unfold pollExpiry; dsimp only; split <;> rfl
  case headEmpty => unfold headEmpty; split <;> simp
  case headPunch => exact headEvent_clock _ _ _ fun u => punchTaken_clock u _ _ _
  case headDoorOpen => exact headEvent_clock _ _ _ fun u => doorOpened_clock u _
  case headDoorClosed => exact headEvent_clock _ _ _ fun u => doorClosed_clock u _
  case headTamperOn => exact headEvent_clock _ _ _ fun u => setConditions_clock _ _ u
  case headTamperOff => exact headEvent_clock _ _ _ fun u => setConditions_clock _ _ u
  case laneReplyBad => unfold replyBad; dsimp only; split <;> simp
  case laneReplyMissed => unfold replyMissed; dsimp only; split <;> simp
  case releaseTimerExpiry => unfold releaseExpiry; dsimp only; split <;> simp
  case heldTimerExpiry =>
    unfold heldExpiry; dsimp only
    split
    · split <;> simp
    · rfl
  case gatherTimerExpiry =>
    unfold gatherExpiry; split
    · split
      · simp [beginClose]
      · simp [endUnset]
    · rfl
  case walkStep =>
    unfold walkStep; split
    · dsimp only
      split <;> simp [endWalk]
    · rfl
  case fireActive => unfold fireActive; split <;> simp
  case fireInactive => unfold fireInactive; split <;> rfl
  case chainLevelActive => unfold chainActive; split <;> simp
  case chainLevelInactive => unfold chainInactive; split <;> rfl
  case powerUp =>
    unfold powerUp; split
    · rfl
    · split <;> rfl
  case mainPowerLost => unfold mainPowerLost; split <;> rfl
  case retainedDomainLost => unfold retainedLost; split <;> rfl
  all_goals rfl

/-- The clock after an event's command. -/
theorem event_clock (i : Instr) (s : State) : ClockCourse s i (eventEffect i s).clock := by
  by_cases h1 : ∃ fire chain, i = .tick100ms fire chain
  · obtain ⟨fire, chain, rfl⟩ := h1
    exact tick_clock fire chain s
  by_cases h2 : i = .secondTick
  · subst h2
    exact secondTick_clock s
  by_cases h3 : ∃ fire chain strap, i = .startComplete fire chain strap
  · obtain ⟨fire, chain, strap, rfl⟩ := h3
    exact startComplete_clock fire chain strap s
  · rw [eventEffect_clock (fun f c e => h1 ⟨f, c, e⟩) h2 (fun f c p e => h3 ⟨f, c, p, e⟩)]
    exact .stands i

/-- The clock after any command. -/
theorem effect_clock (i : Instr) (s : State) : ClockCourse s i (effect i s).clock := by
  unfold effect
  split
  · next act h => exact request_clock h s
  · exact event_clock i s

/-! ## What the course of the clock keeps -/

theorem setTo_range {c : Clock} (h : ClockRange c) (time : Word) {offset : Nat} (ho : offset ≤ 6) :
    ClockRange (c.setTo time.toNat offset) where
  gateTime := Nat.le_of_lt_succ time.isLt
  weekdayOffset := ho
  slewLow := by simp [Clock.setTo]
  slewHigh := by simp [Clock.setTo]
  slewPhase := Nat.zero_le _
  settled _ := rfl
  secondDivider := Nat.zero_le _
  msDivider := h.msDivider

theorem clampSlew_range (a : Int) : -3600 ≤ clampSlew a ∧ clampSlew a ≤ 3600 := by
  unfold clampSlew; omega

theorem slewed_range {c : Clock} (h : ClockRange c) (a : Int) :
    ClockRange { c with slew := clampSlew a, slewPhase := 0 } :=
  { h with
    slewLow := (clampSlew_range a).1
    slewHigh := (clampSlew_range a).2
    slewPhase := Nat.zero_le _
    settled := fun _ => rfl }

/-! ### The four cases of a second tick (R5, R6) -/

/-- No slew remains: one second. -/
theorem second_settled {c : Clock} (h : c.slew = 0) :
    c.second = { c with gateTime := capTime (c.gateTime + 1), secondsDue := c.secondsDue - 1 } := by
  simp [Clock.second, Clock.amount, Clock.slewed, h]

/-- A slew remains and the tick is not its tenth: one second, and the phase rises. -/
theorem second_waiting {c : Clock} (h : c.slew ≠ 0) (hp : c.slewPhase ≠ 9) :
    c.second =
      { c with gateTime := capTime (c.gateTime + 1), slewPhase := c.slewPhase + 1, secondsDue := c.secondsDue - 1 } := by
  simp [Clock.second, Clock.amount, Clock.slewed, h, hp]

/-- A slewed tick forward: two seconds. -/
theorem second_forward {c : Clock} (h : 0 < c.slew) (hp : c.slewPhase = 9) :
    c.second =
      { c with
        gateTime := capTime (c.gateTime + 2), slew := c.slew - 1, slewPhase := 0, secondsDue := c.secondsDue - 1 } := by
  simp [Clock.second, Clock.amount, Clock.slewed, h, h.ne', hp]

/-- A slewed tick backward: gate time stays. -/
theorem second_backward {c : Clock} (h : c.slew < 0) (hp : c.slewPhase = 9) :
    c.second =
      { c with
        gateTime := capTime c.gateTime, slew := c.slew + 1, slewPhase := 0, secondsDue := c.secondsDue - 1 } := by
  simp [Clock.second, Clock.amount, Clock.slewed, h.not_gt, h.ne, hp]

theorem tick_range {c : Clock} (h : ClockRange c) (count : Word) : ClockRange { c.tick with tickCount := count } := by
  have := h.secondDivider
  unfold Clock.tick
  split
  · exact { h with secondDivider := Nat.zero_le _, msDivider := Nat.zero_le _ }
  · exact { h with secondDivider := (by dsimp only; omega), msDivider := Nat.zero_le _ }

/-- A second tick keeps the ranges: a slewed tick brings the slew toward 0 and its phase back to 0 (R5, R6). -/
theorem second_range {c : Clock} (h : ClockRange c) : ClockRange c.second := by
  obtain ⟨-, hw, hlow, hhigh, hphase, hset, hsd, hms⟩ := h
  have cap : ∀ t, capTime t ≤ Config.maxTime := fun t => min_le_right _ _
  by_cases h0 : c.slew = 0
  · rw [second_settled h0]
    exact ⟨cap _, hw, hlow, hhigh, hphase, hset, hsd, hms⟩
  by_cases h9 : c.slewPhase = 9
  · rcases lt_or_gt_of_ne h0 with hn | hp
    · rw [second_backward hn h9]
      exact ⟨cap _, hw, by dsimp only; omega, by dsimp only; omega, Nat.zero_le _, fun _ => rfl, hsd, hms⟩
    · rw [second_forward hp h9]
      exact ⟨cap _, hw, by dsimp only; omega, by dsimp only; omega, Nat.zero_le _, fun _ => rfl, hsd, hms⟩
  · rw [second_waiting h0 h9]
    exact ⟨cap _, hw, hlow, hhigh, by dsimp only; omega, fun e => absurd e h0, hsd, hms⟩

/-- Every course of the clock keeps its items in their ranges. -/
theorem ClockCourse.range {s : State} {i : Instr} {c : Clock} (h : ClockCourse s i c) (hr : ClockRange s.clock) :
    ClockRange c := by
  cases h with
  | stands => exact hr
  | set b tag time offset ho => exact setTo_range hr time ho
  | slewed b tag amount => exact slewed_range hr _
  | ticked fire chain count => exact tick_range hr count
  | second => exact second_range hr
  | started => exact { hr with }
  | cold => constructor <;> decide

theorem millisecond_range {s : State} (h : ClockRange s.clock) : ClockRange (millisecond s).clock := by
  have up : s.clock.msDivider < 99 → ClockRange { s.clock with msDivider := s.clock.msDivider + 1 } := fun hms =>
    { h with msDivider := hms }
  unfold millisecond
  split
  · next hc => dsimp only; split <;> exact up hc.2
  · exact h

end Sys2Proof.Proofs
end


section
/-! PROOF. Every step keeps the buffers in their capacities and the clock in its ranges. -/

namespace Sys2Proof.Proofs

open Machine Laws

/-- Settles O57: every command and every idle millisecond keeps the bounds and the clock's ranges. -/
theorem stepsKeepTheBounds : Obligations.StepsKeepTheBounds := by
  unfold Obligations.StepsKeepTheBounds
  refine ⟨fun s t => ?_, fun s t => ?_⟩
  · exact step_keeps (P := Bounded) (fun _ _ h => { h with }) (fun _ h => bounded_of_quiet h millisecond_quiet)
      (fun i _ h => effect_bounded i h)
  · exact step_keeps (P := fun u => ClockRange u.clock) (fun _ _ h => h) (fun _ => millisecond_range)
      (fun i u h => (effect_clock i u).range h)

end Sys2Proof.Proofs
end

section
/-! PROOF. The Gate Clock: the idle millisecond, the tick, and what can lower validity or gate time. -/

namespace Sys2Proof.Proofs

open Machine Laws

/-! ## The idle millisecond (R3) -/

/-- An idle millisecond below a divider of 99, with the blocks running. -/
theorem millisecond_counts {s : State} (hr : s.running = true) (h : s.clock.msDivider < 99) :
    millisecond s =
      { s with
        clock := { s.clock with msDivider := s.clock.msDivider + 1 }
        lanes := Table.update Lane.cold (Lane.afterMs 1) s.lanes } := by
  simp [millisecond, State.counts, hr, h]

/-- At a divider of 99 the next millisecond is the tick itself. -/
theorem millisecond_waits {s : State} (h : 99 ≤ s.clock.msDivider) : millisecond s = s := by
  simp [millisecond, h.not_gt]

/-- Settles O2: the two cases of an idle millisecond; the lanes are read through the table's update. -/
theorem idleStepIsMillisecond : Obligations.IdleStepIsMillisecond := by
  unfold Obligations.IdleStepIsMillisecond
  intro s hp hr hw
  refine ⟨millisecond s, by unfold step; rw [hp], ?_⟩
  by_cases h : s.clock.msDivider < 99
  · rw [millisecond_counts hr h]
    exact ⟨rfl, fun h' => absurd h h'.not_gt, fun _ => ⟨rfl, fun n => get_update hw (by rfl) n⟩⟩
  · rw [millisecond_waits (not_lt.1 h)]
    exact ⟨rfl, fun _ => rfl, fun h' => absurd h' h⟩

/-! ## The 100 ms tick (R3, R4, R172) -/

/-- The ninth count of the second divider leads to 0, and a second tick falls due; any other rises by one (R4). -/
theorem tick_tenth {c : Clock} (h : c.secondDivider = 9) :
    c.tick = { c with msDivider := 0, secondDivider := 0, secondsDue := c.secondsDue + 1 } := by
  simp [Clock.tick, h]

theorem tick_other {c : Clock} (h : c.secondDivider ≠ 9) :
    c.tick = { c with msDivider := 0, secondDivider := c.secondDivider + 1 } := by
  simp [Clock.tick, h]

@[simp] theorem tick_gateTime (c : Clock) : c.tick.gateTime = c.gateTime := by unfold Clock.tick; split <;> rfl
@[simp] theorem tick_valid (c : Clock) : c.tick.valid = c.valid := by unfold Clock.tick; split <;> rfl

/-- What a tick's clock is beyond its second divider and the second ticks due. -/
theorem tick_form (c : Clock) :
    c.tick = { c with msDivider := 0, secondDivider := c.tick.secondDivider, secondsDue := c.tick.secondsDue } := by
  unfold Clock.tick; split <;> rfl

/-- Settles O11: the tick is `tickBlocks`; its clock by the two cases of the second divider, lanes and arbiters through
the table's update. -/
theorem tickCounts : Obligations.TickCounts := by
  unfold Obligations.TickCounts
  intro fire chain s hr hl ha
  refine ⟨tickBlocks fire chain s, ?_, ?_, fun h => ?_, fun h => ?_, fun n => ?_, fun o => ?_, ?_, ?_, ?_, ?_⟩
  · exact congrArg Host.Outcome.next (if_pos hr)
  · unfold tickBlocks
    dsimp only
    rw [tick_form s.clock]
    simp [Evac.tick, newSample, Evac.drive, Bool.or_assoc, countDown]
  · simp [tickBlocks, tick_other h]
  · simp [tickBlocks, tick_tenth h]
  · exact get_update (f := fun l => (l.afterMs (100 - s.clock.msDivider)).afterTick) hl rfl n
  · exact get_update ha (by rfl) o
  all_goals simp +contextual [tickBlocks, Evac.tick, newSample]

/-! ## Validity and gate time -/

/-- Settles O16: by the course of the clock under each command. -/
theorem clockOnlyLosesAtColdStart : Obligations.ClockOnlyLosesAtColdStart := by
  unfold Obligations.ClockOnlyLosesAtColdStart
  intro i s t h hmax hcold
  have hc := effect_clock i s
  rw [eq_effect h]
  generalize (effect i s).clock = c at hc
  cases hc with
  | stands => exact ⟨id, fun _ => le_rfl⟩
  | set b tag time offset => exact ⟨fun _ => rfl, fun hn => absurd ⟨b, tag, time, offset, rfl⟩ hn⟩
  | slewed => exact ⟨id, fun _ => le_rfl⟩
  | ticked => exact ⟨fun hv => (tick_valid _).trans hv, fun _ => (tick_gateTime _).ge⟩
  | second => exact ⟨id, fun _ => le_min (Nat.le_add_right _ _) hmax⟩
  | started => exact ⟨id, fun _ => le_rfl⟩
  | cold fire chain strap hs => exact absurd ⟨fire, chain, strap, rfl, hs⟩ hcold

/-! ## TIME SLEW (R10) -/

/-- Bringing an amount to its limits leaves it exactly when it lies within them. -/
theorem clampSlew_eq_iff (a : Int) : clampSlew a = a ↔ -3600 ≤ a ∧ a ≤ 3600 := by
  unfold clampSlew; omega

/-- TIME SLEW while the clock is SET. -/
theorem timeSlew_valid {s : State} (hv : s.clock.valid = true) (amount : Half) :
    timeSlew amount s =
      answer (if -3600 ≤ amount.toInt ∧ amount.toInt ≤ 3600 then .ok else .clamped)
        { s with clock := { s.clock with slew := max (-3600) (min amount.toInt 3600), slewPhase := 0 } } := by
  simp only [timeSlew, hv, Bool.not_true, Bool.false_eq_true, if_false, clampSlew_eq_iff]
  rfl

/-- TIME SLEW while the clock is UNSET. -/
theorem timeSlew_unset {s : State} (hv : s.clock.valid = false) (amount : Half) :
    timeSlew amount s = answer .clockUnset s := by
  simp [timeSlew, hv]

/-- Settles O13: the ready request is taken, and the block's two cases are the statement's. -/
theorem timeSlewReplaces : Obligations.TimeSlewReplaces := by
  unfold Obligations.TimeSlewReplaces
  intro b tag amount s h
  refine congrArg Host.Outcome.next ((takeRequest_ready _ h rfl).trans ?_)
  cases hv : s.clock.valid
  · rw [timeSlew_unset (s := s.taken) hv]; rfl
  · rw [timeSlew_valid (s := s.taken) hv]; rfl

/-! ## Reads -/

/-- A ready request that only reads is answered from the state without its request. -/
theorem read_ready {i : Instr} {kind tag : Byte} {payload data : List Byte} {act : State → Answer} {s : State}
    (h : Ready i s) (he : encodeRequest i = some ⟨false, kind, tag, payload⟩)
    (hact : act s.taken = returns data s.taken) : takeRequest i act s = s.taken.reply kind tag .ok data := by
  rw [takeRequest_ready act h he, hact]
  rfl

/-- Settles O15: each block reads the state and returns its data. -/
theorem fixedReadsReply : Obligations.FixedReadsReply := by
  unfold Obligations.FixedReadsReply
  refine ⟨⟨fun tag s h => ?_, fun tag s h => ?_⟩, fun tag s h => ?_⟩ <;> refine congrArg Host.Outcome.next ?_
  · rw [read_ready (act := timeRead) h rfl rfl]
    cases hv : s.clock.valid <;> simp [hv, flagByte, be8]
  · exact read_ready h rfl rfl
  · rw [read_ready (act := describe) h rfl rfl]
    simp [describeCounts, State.taken]

end Sys2Proof.Proofs
end

section
/-! PROOF. The second tick: the advance, and when and where bells ring (R5 to R7, R31, R157 to R162). -/

namespace Sys2Proof.Proofs

open Machine Laws

/-! ## The advance -/

/-- A second tick that is due, with the blocks running (R5, R7). -/
theorem secondTick_due {s : State} (hr : s.running = true) (hd : 0 < s.clock.secondsDue) :
    secondTick s =
      if s.clock.valid = true ∧ s.clock.gateTime < s.clock.second.gateTime then
        advanceEvent s.clock.gateTime s.clock.second.gateTime { s with clock := s.clock.second }
      else { s with clock := s.clock.second } := by
  simp only [secondTick, State.counts, hr, hd, Bool.true_or, and_self, if_true, true_and]
  rfl

/-- Either way the clock is that of the second tick. -/
theorem secondTick_due_clock {s : State} (hr : s.running = true) (hd : 0 < s.clock.secondsDue) :
    (secondTick s).clock = s.clock.second := by
  rw [secondTick_due hr hd]
  split
  · simp [advanceEvent]
  · rfl

/-! ## Bell times -/

/-- A CLOCK entry rings at its minute on the weekdays of its mask (R159). -/
theorem ringsAt_clock {s : State} {e : BellEntry} (hk : e.kind = .clock) (t : Nat) :
    s.ringsAt e t = true ↔
      e.inUse = true ∧ t % 86400 = 60 * e.minute ∧
        e.weekdays.getLsbD ((t / 86400 + s.clock.weekdayOffset) % 7) = true := by
  have hday : t = t / 86400 * 86400 + 60 * e.minute ↔ t % 86400 = 60 * e.minute := by omega
  unfold State.ringsAt
  rw [hk, Bool.and_eq_true, Bool.and_eq_true, decide_eq_true_eq]
  exact and_congr_right fun _ => and_congr_left fun _ => hday

/-- The days whose instances are looked at (R160; log entry 29). -/
theorem mem_bellDays {d k : Nat} : k ∈ (if 1 ≤ d then [d - 1] else []) ++ [d, d + 1] ↔ d ≤ k + 1 ∧ k ≤ d + 1 := by
  split <;> simp <;> omega

/-- The bell time of a SHIFT entry, from its shift's minutes (R160). -/
theorem shiftBell_eq (s : State) (e : BellEntry) (d : Nat) :
    s.shiftBell e d =
      86400 * d + 60 * e.offset
        + (match e.anchor with
          | .start => 60 * (s.shift e.shift).start
          | .stop => 60 * (s.shift e.shift).stop
              + if (s.shift e.shift).start < (s.shift e.shift).stop then 0 else 86400) := by
  unfold State.shiftBell State.shiftOn Shift.crosses
  cases e.anchor <;> dsimp only
  · push_cast; ring
  · by_cases h : (s.shift e.shift).start < (s.shift e.shift).stop
    · simp only [h, not_le.2 h, decide_false, Bool.false_eq_true, if_true, if_false]; push_cast; ring
    · simp only [h, not_lt.1 h, decide_true, if_true, if_false]; push_cast; ring

/-- A SHIFT entry rings when its shift occurs on the day that its time counts from (R160). -/
theorem ringsAt_shift {s : State} {e : BellEntry} (hk : e.kind = .shift) (t : Nat) :
    s.ringsAt e t = true ↔
      e.inUse = true ∧ ∃ d, t / 86400 ≤ d + 1 ∧ d ≤ t / 86400 + 1 ∧ s.occurs e.shift d = true ∧ (t : Int) = s.shiftBell e d := by
  simp only [State.ringsAt, hk, Bool.and_eq_true, List.any_eq_true, decide_eq_true_eq]
  refine and_congr_right fun _ => exists_congr fun d => ?_
  rw [mem_bellDays, and_assoc, eq_comm (a := (t : Int))]
  rfl

/-! ## Occurrences (R31) -/

/-- A listed entry of a table in canonical form is the record of its index, and a record that differs from the cold-start
entry is listed. -/
theorem exists_mem_iff {α : Type} [DecidableEq α] {d : α} {t : Table α} (h : Table.wf d t = true) {p : Nat → α → Prop}
    (hd : ∀ i, ¬ p i d) : (∃ e ∈ t, p e.1 e.2) ↔ ∃ i, p i (Table.get d t i) := by
  constructor
  · rintro ⟨e, he, hp⟩
    exact ⟨e.1, by rwa [get_of_mem (v := e.2) (wf_iff.1 h).1 he]⟩
  · rintro ⟨i, hp⟩
    exact ⟨_, mem_of_get fun e => hd i (by rwa [e] at hp), hp⟩

theorem inUse_iff (w : Worker) : w.inUse = true ↔ w.status ≠ .free := by simp [Worker.inUse]

theorem crewInUse_iff {s : State} (h : Table.wf Worker.zeroed s.workers = true) (c : Nat) :
    s.crewInUse c = true ↔ ∃ j, (s.worker j).status ≠ .free ∧ (s.worker j).crew = c := by
  have := exists_mem_iff h (p := fun _ w => w.status ≠ .free ∧ w.crew = c) (fun _ hz => hz.1 rfl)
  simp only [State.crewInUse, List.any_eq_true, Bool.and_eq_true, inUse_iff, decide_eq_true_eq]
  exact this

theorem occurs_iff {s : State} (h : Table.wf Worker.zeroed s.workers = true) (i d : Nat) :
    s.occurs i d = true ↔
      ∃ c j, c < 16 ∧ (s.worker j).status ≠ .free ∧ (s.worker j).crew = c ∧ (s.crew c).rotaDay d = some i := by
  simp only [State.occurs, List.any_eq_true, List.mem_range, Bool.and_eq_true, crewInUse_iff h, decide_eq_true_eq]
  constructor
  · rintro ⟨c, hc, ⟨j, hj, hcrew⟩, hd⟩
    exact ⟨c, j, hc, hj, hcrew, hd⟩
  · rintro ⟨c, j, hc, hj, hcrew, hd⟩
    exact ⟨c, hc, ⟨j, hj, hcrew⟩, hd⟩

/-! ## Firing (R161) -/

theorem fireBells_one (s : State) (p : Nat) : fireBells p (p + 1) s = fireAt s (p + 1) := by
  simp [fireBells]

theorem fireBells_two (s : State) (p : Nat) : fireBells p (p + 2) s = fireAt (fireAt s (p + 1)) (p + 2) := by
  have h : p + 2 - p = 2 := by omega
  simp [fireBells, h, List.range_succ, Nat.add_assoc]

theorem fireEntry_silent {s : State} {i t : Nat} (h : s.ringsAt (s.bellEntry i) t = false) : fireEntry t s i = s := by
  simp [fireEntry, h]

theorem fireEntry_rings {s : State} {i t : Nat} (h : s.ringsAt (s.bellEntry i) t = true) :
    fireEntry t s i =
      ringOutputs (s.bellEntry i).outputs ⟨(s.bellEntry i).pattern, (s.bellEntry i).priority⟩ s := by
  simp [fireEntry, h]

/-- Settles O12: the four cases of the second tick's clock, then what the bells of an advance are. -/
theorem secondTickAdvances : Obligations.SecondTickAdvances := by
  unfold Obligations.SecondTickAdvances
  refine ⟨fun s hr hd => ⟨secondTick s, rfl, ?_⟩, fun s e t => ?_, fun s i d h => occurs_iff h i d,
    fun s p => ⟨fireBells_one s p, fireBells_two s p⟩, fun s i t => ⟨fireEntry_silent, fun h => ?_⟩⟩
  · rw [secondTick_due_clock hr hd]
    refine ⟨fun h => ?_, fun h hp => ?_, fun h hp => ?_, fun h hp => ?_, rfl, fun hv => ?_, fun hv hle => ?_,
      fun hv hlt => ?_⟩
    · rw [second_settled h]; exact ⟨rfl, h, rfl⟩
    · rw [second_waiting h hp]; exact ⟨rfl, rfl, rfl⟩
    · rw [second_forward h hp]; exact ⟨rfl, rfl, rfl⟩
    · rw [second_backward h hp]; exact ⟨rfl, rfl, rfl⟩
    · rw [secondTick_due hr hd, if_neg (by simp [hv])]
    · rw [secondTick_due hr hd, if_neg fun h => h.2.not_ge hle]
    · rw [secondTick_due hr hd, if_pos ⟨hv, hlt⟩]; rfl
  · cases hk : e.kind
    · exact ringsAt_clock hk t
    · exact (ringsAt_shift hk t).trans (and_congr_right fun _ => exists_congr fun d => and_congr_right fun _ =>
        and_congr_right fun _ => and_congr_right fun _ => Eq.congr_right (shiftBell_eq s e d))
  · obtain ⟨⟨a, hform⟩, hread⟩ :=
      ringOutputs_spec (s.bellEntry i).outputs ⟨(s.bellEntry i).pattern, (s.bellEntry i).priority⟩ s
    refine ⟨_, fireEntry_rings h, by rw [hform], fun o ho hm => ?_, fun o ho => ?_⟩
    · rw [hread, if_pos ⟨ho, hm⟩]
    · rw [hread, if_neg]
      rintro ⟨h4, hm⟩
      rcases ho with ho | ho
      · exact h4.not_ge ho
      · rw [ho] at hm; cases hm

end Sys2Proof.Proofs
end

section
/-! SUPPORT. Expiries (R40, R102): which records are due, and what taking the expiries makes of each record. -/

namespace Sys2Proof.Proofs

open Machine Laws

section Records

variable {s : State} {i j : Nat}

@[simp] theorem offerEntry_worker (body : EntryBody) (s : State) (j : Nat) :
    (offerEntry body s).worker j = s.worker j := by
  unfold State.worker; rw [offerEntry_workers]

theorem setPresence_worker (i : Nat) (p : Presence) (s : State) (j : Nat) :
    (setPresence i p s).worker j = if j = i then { s.worker i with presence := p } else s.worker j :=
  setWorker_read ..

/-- A pairing writes its own record alone. -/
theorem makePairing_worker_ne (h : j ≠ i) (kind : PairKind) (raw : Nat) (p : Presence) (s : State) :
    (makePairing i kind raw p s).worker j = s.worker j := by
  unfold makePairing
  dsimp only
  split
  · rfl
  · rw [offerEntry_worker, setWorker_ne _ _ _ _ h]

/-- A pairing other than a SPLIT leaves no open attendance (R119). -/
theorem makePairing_attendance {kind : PairKind} (h : kind ≠ .split) (raw : Nat) (p : Presence) (s : State) :
    ((makePairing i kind raw p s).worker i).attendance = none := by
  unfold makePairing
  dsimp only
  split
  · next hn => exact hn
  · rw [offerEntry_worker, setWorker_same]
    cases kind
    · rfl
    · rfl
    · exact absurd rfl h

/-- A close that reaches a record writes that record alone. -/
theorem reachRecord_worker_ne (h : j ≠ i) (p : Presence) (s : State) : (reachRecord i p s).worker j = s.worker j := by
  unfold reachRecord
  dsimp only
  split
  · rfl
  split
  · rfl
  split
  · exact setWorker_ne _ _ _ _ h
  split
  · exact setWorker_ne s _ _ _ h
  · unfold recordClose
    extract_lets splits s1 w s2
    have h1 : s1.worker j = s.worker j := by
      unfold s1; split
      · exact makePairing_worker_ne h _ _ _ _
      · rfl
    exact (setWorker_ne s1 _ _ _ h).trans h1

theorem callPairing_worker_ne (h : j ≠ i) (kind : PairKind) (raw : Nat) (p : Presence) (s : State) :
    (callPairing i kind raw p s).worker j = s.worker j := by
  unfold callPairing
  rw [makePairing_worker_ne h]
  split
  · exact reachRecord_worker_ne h p s
  · rfl

/-- An expiry writes its own record alone. -/
theorem expire_worker_ne (h : j ≠ i) (s : State) : (expire i s).worker j = s.worker j := by
  unfold expire
  split
  · rfl
  · rw [setPresence_worker, if_neg h, callPairing_worker_ne h]

/-- A record with an open attendance has none after its expiry, and presence UNKNOWN (R102). -/
theorem expire_expired (h : (s.worker i).attendance.isSome = true) :
    ((expire i s).worker i).attendance = none ∧ ((expire i s).worker i).presence = .unknown := by
  obtain ⟨a, ha⟩ := Option.isSome_iff_exists.1 h
  unfold expire
  rw [ha]
  dsimp only
  rw [setPresence_worker, if_pos rfl]
  exact ⟨makePairing_attendance (by decide) _ _ _, rfl⟩

/-! ## The expiries due -/

/-- The due records are those with a deadline at or before the gate time (R40). -/
theorem mem_dueExpiries (h : Table.wf Worker.zeroed s.workers = true) :
    i ∈ s.dueExpiries ↔ ∃ a, (s.worker i).attendance = some a ∧ a.deadline ≤ s.clock.gateTime := by
  have hd : ∀ w : Worker,
      (match w.attendance with | some a => decide (a.deadline ≤ s.clock.gateTime) | none => false) = true ↔
        ∃ a, w.attendance = some a ∧ a.deadline ≤ s.clock.gateTime := by
    intro w
    cases w.attendance <;> simp
  have key := exists_mem_iff h
    (p := fun k w => (∃ a, w.attendance = some a ∧ a.deadline ≤ s.clock.gateTime) ∧ k = i)
    (by rintro k ⟨⟨a, ha, -⟩, -⟩; cases ha)
  simp only [State.dueExpiries, List.mem_map, List.mem_filter, and_assoc]
  refine Iff.trans (exists_congr fun e => and_congr_right fun _ => and_congr_left fun _ => hd e.2) (key.trans ?_)
  constructor
  · rintro ⟨k, hk, rfl⟩; exact hk
  · exact fun hi => ⟨i, hi, rfl⟩

/-- They are taken in ascending order of index. -/
theorem dueExpiries_rising (h : Table.wf Worker.zeroed s.workers = true) : s.dueExpiries.Pairwise (· < ·) :=
  List.pairwise_map.2 ((wf_iff.1 h).1.filter _)

/-- Expiries one after another. -/
def expireAll (l : List Nat) (s : State) : State := l.foldl (fun u i => expire i u) s

theorem expireAll_worker_notMem {l : List Nat} (h : j ∉ l) (s : State) : (expireAll l s).worker j = s.worker j := by
  induction l generalizing s with
  | nil => rfl
  | cons i l ih =>
    exact (ih (List.not_mem_of_not_mem_cons h) _).trans (expire_worker_ne (List.ne_of_not_mem_cons h) s)

theorem expireAll_expired {l : List Nat} (hl : l.Nodup) (hi : i ∈ l) {s : State}
    (h : (s.worker i).attendance.isSome = true) :
    ((expireAll l s).worker i).attendance = none ∧ ((expireAll l s).worker i).presence = .unknown := by
  induction l generalizing s with
  | nil => cases hi
  | cons k l ih =>
    obtain ⟨hk, hl⟩ := List.nodup_cons.1 hl
    rcases eq_or_ne i k with rfl | hne
    · have e : (expireAll (i :: l) s).worker i = (expire i s).worker i := expireAll_worker_notMem hk _
      rw [e]
      exact expire_expired h
    · exact ih hl (List.mem_of_ne_of_mem hne hi) (by rwa [expire_worker_ne hne])

theorem takeExpiries_unset (h : s.clock.valid = false) : takeExpiries s = s := by
  simp [takeExpiries, h]

theorem takeExpiries_evacuating (h : s.evac.evacuating = true) : takeExpiries s = s := by
  simp [takeExpiries, h]

/-- While the clock is SET and no evacuation is on, the due expiries are taken. -/
theorem takeExpiries_taken (hv : s.clock.valid = true) (he : s.evac.evacuating = false) :
    takeExpiries s = expireAll s.dueExpiries s := by
  simp [takeExpiries, hv, he, expireAll]

/-- A due record has expired once the expiries are taken. -/
theorem takeExpiries_expired (hv : s.clock.valid = true) (he : s.evac.evacuating = false)
    (hw : Table.wf Worker.zeroed s.workers = true)
    (hd : ∃ a, (s.worker i).attendance = some a ∧ a.deadline ≤ s.clock.gateTime) :
    ((takeExpiries s).worker i).attendance = none ∧ ((takeExpiries s).worker i).presence = .unknown := by
  rw [takeExpiries_taken hv he]
  refine expireAll_expired ((dueExpiries_rising hw).imp ne_of_lt) ((mem_dueExpiries hw).2 hd) ?_
  obtain ⟨a, ha, -⟩ := hd
  rw [ha]; rfl

/-- A record that is not due stands. -/
theorem takeExpiries_stands (hw : Table.wf Worker.zeroed s.workers = true)
    (hd : ¬ ∃ a, (s.worker i).attendance = some a ∧ a.deadline ≤ s.clock.gateTime) :
    (takeExpiries s).worker i = s.worker i := by
  cases hv : s.clock.valid
  · rw [takeExpiries_unset hv]
  cases he : s.evac.evacuating
  · rw [takeExpiries_taken hv he, expireAll_worker_notMem (mt (mem_dueExpiries hw).1 hd)]
  · rw [takeExpiries_evacuating he]

/-- With no record due, nothing expires. -/
theorem takeExpiries_none (hw : Table.wf Worker.zeroed s.workers = true)
    (hd : ∀ i, ¬ ∃ a, (s.worker i).attendance = some a ∧ a.deadline ≤ s.clock.gateTime) : takeExpiries s = s := by
  cases hv : s.clock.valid
  · exact takeExpiries_unset hv
  cases he : s.evac.evacuating
  · have hnil : s.dueExpiries = [] := List.eq_nil_iff_forall_not_mem.2 fun i hi => hd i ((mem_dueExpiries hw).1 hi)
    rw [takeExpiries_taken hv he, hnil]; rfl
  · exact takeExpiries_evacuating he

end Records

end Sys2Proof.Proofs
end

section
/-! PROOF. The cold start and the invariants of its state. -/

namespace Sys2Proof.Proofs

open Machine Laws

/-- With both levels inactive and no retained evacuation, Evacuation Control's restoring changes its own items alone. -/
theorem restoreEvacuation_quietLevels {s : State} (h : s.evac.evacuating = false) :
    restoreEvacuation false false s = { s with evac := s.evac.restored false false } := by
  simp [restoreEvacuation, Evac.restored, h, takeChain]

/-- A journal below its high mark and not full sets no condition (R156). -/
theorem restoreJournal_calm {s : State} (h1 : s.journalHigh = false) (h2 : s.journalFull = false) :
    restoreJournal s = s := by
  simp [restoreJournal, flagJournal, h1, h2]

/-- Settles O7: each step of the completion acts on the reset's values. -/
theorem coldStartIsReset : Obligations.ColdStartIsReset := by
  unfold Obligations.ColdStartIsReset
  intro strap s hs hm
  refine congrArg Host.Outcome.next ?_
  have hrun : startComplete false false strap s = completeStart .cold false false strap (coldDomain s) := by
    simp [startComplete, hs, hm]
  rw [hrun, completeStart, takeExpiries_unset rfl, restoreEvacuation_quietLevels rfl, restoreJournal_calm rfl rfl]
  simp only [restoreClose, startValues, coldDomain, hm]
  rfl

/-- Settles O54: the tables of the reset are empty, so every record reads as its cold-start entry. -/
theorem resetMeetsTheInvariants : Obligations.ResetMeetsTheInvariants := by
  unfold Obligations.ResetMeetsTheInvariants
  have hworker : ∀ i, State.reset.worker i = Worker.zeroed := fun _ => rfl
  have hlane : ∀ n, State.reset.lane n = Lane.cold := fun _ => rfl
  have hfit : LaneFits false Lane.cold := by constructor <;> decide
  refine ⟨⟨rfl, fun i _ => hworker i, rfl, fun i _ => by rw [hworker]; rfl, fun _ i => by rw [hworker]; rfl, ?_, ?_, ?_⟩,
    ⟨rfl, rfl, by decide, fun i h => ?_⟩, ?_, ?_, ⟨rfl, fun n _ => hfit⟩, ?_, ?_⟩
  · exact List.Pairwise.nil
  · simp [State.reset]
  · intro n p _ h
    rw [hlane] at h
    cases h
  · rw [hworker] at h
    cases h
  all_goals constructor <;> decide

end Sys2Proof.Proofs
end

section
/-! PROOF. TIME SET (R2, R8, R9). -/

namespace Sys2Proof.Proofs

open Machine Laws

theorem timeSet_refused {offset : Byte} (h : 6 < offset.toNat) (time : Word) (s : State) :
    timeSet time offset s = answer .badValue s := by
  simp [timeSet, h]

theorem timeSet_taken {offset : Byte} (h : offset.toNat ≤ 6) (time : Word) (s : State) :
    timeSet time offset s =
      answer .ok
        (takeExpiries
          { offerEntry (.clock s.now time.toNat) s with clock := s.clock.setTo time.toNat offset.toNat }) := by
  simp [timeSet, h.not_gt]

/-- Settles O14: the ready request is taken by the block's two cases; the expiries by the lemmas of the due records. -/
theorem timeSetTakes : Obligations.TimeSetTakes := by
  unfold Obligations.TimeSetTakes
  refine ⟨fun b tag time offset s h => ⟨fun ho => ?_, fun ho => ?_⟩, fun s => ⟨fun h => ?_, fun hv he hw => ?_⟩⟩
  · refine congrArg Host.Outcome.next ((takeRequest_ready _ h rfl).trans ?_)
    rw [timeSet_refused ho]; rfl
  · refine congrArg Host.Outcome.next ((takeRequest_ready _ h rfl).trans ?_)
    rw [timeSet_taken ho]; rfl
  · exact h.elim takeExpiries_unset takeExpiries_evacuating
  · have hdue := fun i => mem_dueExpiries (i := i) hw
    exact ⟨s.dueExpiries, takeExpiries_taken hv he, dueExpiries_rising hw, hdue,
      fun i hi => takeExpiries_expired hv he hw ((hdue i).1 hi), fun i hi => takeExpiries_stands hw (mt (hdue i).2 hi),
      takeExpiries_clock s⟩

end Sys2Proof.Proofs
end

section
/-! SUPPORT. What expiries leave of the change flags and of the last punches (R86, R151): the flags of the journal's
conditions agree with the conditions while the journal only fills. -/

namespace Sys2Proof.Proofs

open Machine Laws

/-! ## The change flags of an offered entry -/

section Offer

variable (body : EntryBody) (s : State)

/-- Storing sets the change flag of each journal condition that changed, and no other flag (R151). -/
theorem storeEntry_changes (e : Entry) (entries : List Entry) :
    (storeEntry e entries s).changes =
      { s.changes with
        journalHigh := s.changes.journalHigh || (s.journalHigh ^^ decide (s.part.highMark ≤ entries.length))
        journalFull := s.changes.journalFull || (s.journalFull ^^ decide (entries.length = Config.journalCap)) } := by
  have sent : ∀ {u v : State}, Sends u v → v.changes = u.changes := by
    rintro u v ⟨q, rfl, -⟩; rfl
  have updated : ∀ {u : State}, Sends { s with journal := { s.journal with entries := entries } } u →
      (updateJournalConditions s u).changes =
        { s.changes with
          journalHigh := s.changes.journalHigh || (s.journalHigh ^^ decide (s.part.highMark ≤ entries.length))
          journalFull := s.changes.journalFull || (s.journalFull ^^ decide (entries.length = Config.journalCap)) } := by
    rintro u ⟨q, rfl, -⟩
    exact sent (updateJournalConditions_spec s _)
  unfold storeEntry
  dsimp only
  split
  · split
    · exact updated (offerFrame_sends _ _)
    · exact (sent (offerFrame_sends _ _)).trans (updated (.refl _))
  · exact updated (.refl _)

/-- An offered entry sets the change flag of each journal condition that it changes, and no other flag. -/
theorem offerEntry_changes :
    (offerEntry body s).changes =
      { s.changes with
        journalHigh := s.changes.journalHigh || (s.journalHigh ^^ (offerEntry body s).journalHigh)
        journalFull := s.changes.journalFull || (s.journalFull ^^ (offerEntry body s).journalFull) } := by
  have high : (offerEntry body s).journalHigh = decide (s.part.highMark ≤ (appended body s).entries.length) := by
    unfold State.journalHigh; rw [offerEntry_journal, offerEntry_part]
  have full : (offerEntry body s).journalFull = decide ((appended body s).entries.length = Config.journalCap) := by
    unfold State.journalFull; rw [offerEntry_journal]
  rw [high, full]
  unfold offerEntry appended
  dsimp only
  split
  · exact storeEntry_changes _ _ _
  · split
    · exact storeEntry_changes _ _ _
    · simp [State.journalHigh, State.journalFull]

/-- The journal never holds fewer entries for an offer, and as many once it is full. -/
theorem appended_fills :
    s.journal.entries.length ≤ (appended body s).entries.length
      ∧ (s.journal.entries.length = Config.journalCap → (appended body s).entries.length = Config.journalCap) := by
  unfold appended
  split
  · next h => simp; omega
  · next h =>
    simp only [Config.journalCap] at *
    split
    · simp; omega
    · simp

end Offer

/-- The change flags of the journal's conditions are set only while their conditions are. -/
structure FlagsAgree (s : State) : Prop where
  high : s.changes.journalHigh = true → s.journalHigh = true
  full : s.changes.journalFull = true → s.journalFull = true

/-- A flag that a change sets agrees with a condition that is never cleared. -/
theorem flag_agrees {flag before after : Bool} (h : flag = true → before = true) (hm : before = true → after = true)
    (hf : (flag || (before ^^ after)) = true) : after = true := by
  cases flag
  · cases before
    · simpa using hf
    · exact hm rfl
  · exact hm (h rfl)

theorem offerEntry_flags {s : State} (body : EntryBody) (h : FlagsAgree s) : FlagsAgree (offerEntry body s) := by
  obtain ⟨hlen, hfull⟩ := appended_fills body s
  have hc := offerEntry_changes body s
  constructor
  · rw [hc]
    refine flag_agrees h.high fun hb => ?_
    simp only [State.journalHigh, decide_eq_true_eq, offerEntry_journal, offerEntry_part] at hb ⊢
    exact hb.trans hlen
  · rw [hc]
    refine flag_agrees h.full fun hb => ?_
    simp only [State.journalFull, decide_eq_true_eq, offerEntry_journal] at hb ⊢
    exact hfull hb

/-! ## Operations on records -/

/-- From `s` to `t` every record keeps its last punch, the journal's flags agree if they did, and the other change flags
of the part stand. -/
structure KeepsFlags (s t : State) : Prop where
  lastPunch : ∀ j, (t.worker j).lastPunch = (s.worker j).lastPunch
  agree : FlagsAgree s → FlagsAgree t
  evacuating : t.changes.evacuating = s.changes.evacuating
  closeDone : t.changes.closeDone = s.changes.closeDone

section Keeps

variable {s t u : State}

theorem keepsFlags_refl (s : State) : KeepsFlags s s := ⟨fun _ => rfl, id, rfl, rfl⟩

theorem keepsFlags_trans (h1 : KeepsFlags s t) (h2 : KeepsFlags t u) : KeepsFlags s u :=
  ⟨fun j => (h2.lastPunch j).trans (h1.lastPunch j), h2.agree ∘ h1.agree, h2.evacuating.trans h1.evacuating,
    h2.closeDone.trans h1.closeDone⟩

theorem offerEntry_keepsFlags (body : EntryBody) (s : State) : KeepsFlags s (offerEntry body s) :=
  ⟨fun j => by rw [offerEntry_worker], offerEntry_flags body, by rw [offerEntry_changes], by rw [offerEntry_changes]⟩

theorem setWorker_keepsFlags {i : Nat} {w : Worker} (h : w.lastPunch = (s.worker i).lastPunch) :
    KeepsFlags s (s.setWorker i w) := by
  refine ⟨fun j => ?_, fun ha => ⟨ha.high, ha.full⟩, rfl, rfl⟩
  rw [setWorker_read]
  split
  · next e => rw [h, e]
  · rfl

theorem setPresence_keepsFlags (i : Nat) (p : Presence) (s : State) : KeepsFlags s (setPresence i p s) := by
  obtain ⟨h1, h2, h3, h4⟩ := setWorker_keepsFlags (s := s) (i := i) (w := { s.worker i with presence := p }) rfl
  exact ⟨h1, fun h => ⟨(h2 h).high, (h2 h).full⟩, h3, h4⟩

theorem makePairing_keepsFlags (i : Nat) (kind : PairKind) (raw : Nat) (p : Presence) (s : State) :
    KeepsFlags s (makePairing i kind raw p s) := by
  unfold makePairing
  dsimp only
  split
  · exact keepsFlags_refl s
  · exact keepsFlags_trans (setWorker_keepsFlags (by rfl)) (offerEntry_keepsFlags _ _)

/-- The close record is written. -/
theorem setClose_keepsFlags (s : State) (c : CloseState) : KeepsFlags s { s with close := c } :=
  ⟨fun _ => rfl, fun h => ⟨h.high, h.full⟩, rfl, rfl⟩

theorem recordClose_keepsFlags (i : Nat) (p : Presence) (s : State) : KeepsFlags s (recordClose i p s) := by
  unfold recordClose
  extract_lets splits s1 w s2
  have h1 : KeepsFlags s s1 := by
    unfold s1; split
    · exact makePairing_keepsFlags _ _ _ _ _
    · exact keepsFlags_refl s
  have h2 : KeepsFlags s1 s2 := setWorker_keepsFlags (by rfl)
  exact keepsFlags_trans h1 (keepsFlags_trans h2 (setClose_keepsFlags s2 _))

theorem reachRecord_keepsFlags (i : Nat) (p : Presence) (s : State) : KeepsFlags s (reachRecord i p s) := by
  unfold reachRecord
  dsimp only
  split
  · exact keepsFlags_refl s
  split
  · exact keepsFlags_refl s
  split
  · exact setWorker_keepsFlags (by rfl)
  split
  · exact keepsFlags_trans (setWorker_keepsFlags (i := i) (by rfl)) (setClose_keepsFlags _ _)
  · exact recordClose_keepsFlags i p s

theorem callPairing_keepsFlags (i : Nat) (kind : PairKind) (raw : Nat) (p : Presence) (s : State) :
    KeepsFlags s (callPairing i kind raw p s) := by
  unfold callPairing
  split
  · exact keepsFlags_trans (reachRecord_keepsFlags i p s) (makePairing_keepsFlags _ _ _ _ _)
  · exact makePairing_keepsFlags _ _ _ _ _

theorem expire_keepsFlags (i : Nat) (s : State) : KeepsFlags s (expire i s) := by
  unfold expire
  split
  · exact keepsFlags_refl s
  · exact keepsFlags_trans (callPairing_keepsFlags _ _ _ _ _) (setPresence_keepsFlags _ _ _)

theorem expireAll_keepsFlags (l : List Nat) (s : State) : KeepsFlags s (expireAll l s) := by
  induction l generalizing s with
  | nil => exact keepsFlags_refl s
  | cons i l ih => exact keepsFlags_trans (expire_keepsFlags i s) (ih _)

theorem takeExpiries_keepsFlags (s : State) : KeepsFlags s (takeExpiries s) := by
  unfold takeExpiries
  split
  · exact expireAll_keepsFlags _ _
  · exact keepsFlags_refl s

end Keeps

end Sys2Proof.Proofs
end

section
/-! SUPPORT. What Evacuation Control's restoring makes of a state at a start (R170, R172, R173, R175, R185), in every case:
a retained evacuation that goes on, a new one, or none. -/

namespace Sys2Proof.Proofs

open Machine Laws

/-! ## Frames offered -/

/-- Whether frames were offered shows in the two upward queues alone. -/
theorem alerts_congr {s s' t t' : State} {l : List UpFrame} (h : Alerts s t l)
    (hs : s'.link.upQueue = s.link.upQueue) (ht : t'.link.upQueue = t.link.upQueue) : Alerts s' t' l := by
  obtain ⟨m, hp, e⟩ := h
  exact ⟨m, hp, by rw [hs, ht, e]⟩

/-- No frame offered. -/
theorem alerts_nil {s t : State} (h : t.link.upQueue = s.link.upQueue) : Alerts s t [] :=
  ⟨[], .refl _, by rw [h]; simp⟩

/-- The frame of a change depends on the alert mask and the PART record alone. -/
theorem alertOf_congr {s t : State} (hp : t.part = s.part) (hm : t.link.alertMask = s.link.alertMask) (rises : Bool)
    (c n v : Nat) : t.alertOf rises c n v = s.alertOf rises c n v := by
  unfold State.alertOf; rw [hp, hm]

/-- A change that does not rise has no frame. -/
theorem alertOf_false (s : State) (c n v : Nat) : s.alertOf false c n v = [] := by simp [State.alertOf]

/-! ## An evacuation start with no lane in RELEASED (R175) -/

/-- No lane is in RELEASED. -/
def NoneReleased (s : State) : Prop := ∀ n, n < 16 → (s.lane n).state ≠ .released

theorem foldl_evacuateLane {s : State} (h : NoneReleased s) : laneNumbers.foldl evacuateLane s = s := by
  have key : ∀ l : List Nat, (∀ n ∈ l, n < 16) → l.foldl evacuateLane s = s := by
    intro l hl
    induction l with
    | nil => rfl
    | cons n l ih =>
      have hn : evacuateLane s n = s := if_neg (h n (hl n (by simp)))
      rw [List.foldl_cons, hn]
      exact ih fun k hk => hl k (List.mem_cons_of_mem _ hk)
  exact key _ fun n hn => List.mem_range.1 hn

/-- The phase of a close once an evacuation has started (R137). -/
def suspendedPhase (p : ClosePhase) : ClosePhase := if p = .walking then .suspended else p

theorem suspendClose_eq (s : State) :
    suspendClose s = { s with close := { s.close with phase := suspendedPhase s.close.phase } } := by
  unfold suspendClose suspendedPhase
  split
  · rfl
  · rfl

/-- The roll, the tone and the close at an evacuation start: the records take their marks, the roll its numbers, every
output the tone, and a walking close is suspended (R175 steps 3 to 5). -/
theorem rollAndTone_form (s : State) :
    ∃ a, suspendClose (soundTone (buildRoll s)) =
        { s with
          workers := Table.update Worker.zeroed Worker.enrolled s.workers
          evac := { s.evac with
            snapshot := stampOf s.now
            rollSize := (buildRoll s).unaccountedRecords, unaccounted := (buildRoll s).unaccountedRecords }
          arbiters := a
          close := { s.close with phase := suspendedPhase s.close.phase } }
      ∧ ∀ o, o < 4 → Table.get Arbiter.idle a o = s.toneArbiter := by
  obtain ⟨⟨a, ha⟩, hread⟩ := soundTone_spec (buildRoll s)
  refine ⟨a, ?_, fun o ho => ?_⟩
  · rw [suspendClose_eq, ha]; rfl
  · have := hread o
    rw [ha, if_pos ho] at this
    exact this

/-- The tone of a retained evacuation and its change flag, with the alert of a flag that was clear (R170, R171). -/
theorem toneAndFlag_form (s : State) :
    ∃ a q, flagEvacuating (soundTone s) =
        { s with
          arbiters := a, changes := { s.changes with evacuating := true }
          link := { s.link with upQueue := s.link.upQueue ++ q } }
      ∧ (∀ o, o < 4 → Table.get Arbiter.idle a o = s.toneArbiter)
      ∧ Alerts s (flagEvacuating (soundTone s)) (s.alertOf (!s.changes.evacuating) 6 255 (setClear s.evac.evacuating)) := by
  obtain ⟨⟨a, ha⟩, hread⟩ := soundTone_spec s
  obtain ⟨q, hq, -⟩ := flagEvacuating_spec (soundTone s)
  have halert := flagEvacuating_alerts (soundTone s)
  rw [ha] at hq halert hread ⊢
  exact ⟨a, q, hq, fun o ho => (hread o).trans (if_pos ho), alerts_congr halert rfl rfl⟩

/-- An evacuation start in one term. -/
theorem startEvacuation_eq (c : Cause) {s : State} (h : NoneReleased s) :
    startEvacuation c s =
      flagEvacuating (offerEntry (.evacStart (s.evac.causes.add c))
        (suspendClose (soundTone (buildRoll
          { s with evac := { s.evac with evacuating := true, causes := s.evac.causes.add c } })))) := by
  have hf := foldl_evacuateLane (s := { s with evac := { s.evac with evacuating := true, causes := s.evac.causes.add c } }) h
  obtain ⟨a, ha, -⟩ :=
    rollAndTone_form { s with evac := { s.evac with evacuating := true, causes := s.evac.causes.add c } }
  unfold startEvacuation
  dsimp only
  rw [hf, ha]

/-! ## The causes that the first levels give (R173, R185) -/

/-- The causes after a start: FIRE as its level, COMMAND as retained, and CHAIN retained or taken from an active line that
the part does not drive. -/
def restoredCauses (fire chain : Bool) (c : Causes) : Causes :=
  ⟨fire, c.command, c.chain || (chain && !fire && !c.command)⟩

/-- Levels that give no cause leave the retained ones. -/
theorem restoredCauses_same {chain : Bool} {c : Causes} (hf : c.fire = false) (hc : (chain && !c.command) = false) :
    restoredCauses false chain c = c := by
  obtain ⟨fire, command, chain'⟩ := c
  obtain rfl : fire = false := hf
  simp [restoredCauses, hc]

/-- Whether the first levels start or would start an evacuation. -/
def levelsStart (fire chain : Bool) (c : Causes) : Bool := fire || (chain && !c.command)

theorem takeCause_evacuating {s : State} (h : s.evac.evacuating = true) (c : Cause) :
    takeCause c s = { s with evac := { s.evac with causes := s.evac.causes.add c } } := by
  simp [takeCause, h]

theorem takeChain_driven {s : State} (h : s.evac.drive = true) : takeChain s = s := by
  simp [takeChain, h]

/-- While an evacuation is retained the levels add causes and do nothing else. -/
theorem takeLevels_evacuating {fire chain : Bool} {s : State} (he : s.evac.evacuating = true)
    (ha : s.evac.armed = true) (hl : s.evac.chainLevel = chain) (hf : s.evac.causes.fire = false) :
    takeChain (if fire then takeCause .fire s else s) =
      { s with evac := { s.evac with causes := restoredCauses fire chain s.evac.causes } } := by
  cases fire
  · simp only [Bool.false_eq_true, if_false]
    by_cases hc : chain = true ∧ s.evac.causes.command = false
    · have : takeChain s = takeCause .chain s := by simp [takeChain, hl, ha, Evac.drive, hf, hc.1, hc.2]
      rw [this, takeCause_evacuating he]
      simp [Causes.add, restoredCauses, hf, hc.1, hc.2]
    · have hn : (chain && !s.evac.causes.command) = false := by simpa using hc
      have : takeChain s = s := by
        unfold takeChain
        rw [if_neg]
        rintro ⟨h1, -, h3⟩
        simp only [Evac.drive, hf, Bool.false_or, Bool.not_eq_true] at h3
        exact hc ⟨hl.symm.trans h1, h3⟩
      rw [this, restoredCauses_same hf hn]
  · simp only [if_true]
    rw [takeCause_evacuating he, takeChain_driven (by simp [Causes.add, Evac.drive])]
    simp [Causes.add, restoredCauses]

/-! ## The restoring -/

/-- `x` with the EVAC START entry offered when an evacuation starts on the way to the items `e`. -/
def evacLogged (e : Evac) (x : State) : State :=
  if e.evacuating && !x.evac.evacuating then offerEntry (.evacStart e.causes) x else x

/-- What Evacuation Control's restoring with the first levels `fire` and `chain` makes of `x`. -/
structure Restores (fire chain : Bool) (x z : State) : Prop where
  form : z =
    { x with
      evac := z.evac, workers := z.workers, arbiters := z.arbiters, journal := z.journal, changes := z.changes
      close := { x.close with phase := z.close.phase }
      link := { x.link with upQueue := z.link.upQueue } }
  evac : z.evac =
    { x.evac.restored fire chain with
      evacuating := x.evac.evacuating || levelsStart fire chain x.evac.causes
      causes := restoredCauses fire chain x.evac.causes
      snapshot := z.evac.snapshot, rollSize := z.evac.rollSize, unaccounted := z.evac.unaccounted }
  phase : z.close.phase =
    if z.evac.evacuating && !x.evac.evacuating then suspendedPhase x.close.phase else x.close.phase
  idle : z.evac.evacuating = false → z.arbiters = x.arbiters
  tone : z.evac.evacuating = true → ∀ o, o < 4 → z.arbiter o = x.toneArbiter
  journal : z.journal = (evacLogged z.evac x).journal
  changes : z.changes =
    { (evacLogged z.evac x).changes with
      evacuating := (evacLogged z.evac x).changes.evacuating || z.evac.evacuating }
  alerts : Alerts (evacLogged z.evac x) z (x.alertOf (!x.changes.evacuating && z.evac.evacuating) 6 255 1)
  kept : z.evac.evacuating = x.evac.evacuating →
    z.workers = x.workers ∧ z.evac.snapshot = x.evac.snapshot ∧ z.evac.rollSize = x.evac.rollSize
      ∧ z.evac.unaccounted = x.evac.unaccounted
  built : z.evac.evacuating = true → x.evac.evacuating = false →
    z.workers = Table.update Worker.zeroed Worker.enrolled x.workers ∧ z.evac.snapshot = stampOf x.now
      ∧ z.evac.rollSize = z.evac.unaccounted ∧ z.evac.unaccounted = z.unaccountedRecords

/-- No evacuation, retained or new: Evacuation Control's own items change alone. -/
theorem restores_none {fire chain : Bool} {x : State} (he : x.evac.evacuating = false)
    (hl : levelsStart fire chain x.evac.causes = false) :
    Restores fire chain x (restoreEvacuation fire chain x) := by
  obtain ⟨rfl, hc⟩ : fire = false ∧ (chain && !x.evac.causes.command) = false := by simpa [levelsStart] using hl
  have hx : restoreEvacuation false chain x = { x with evac := x.evac.restored false chain } := by
    unfold restoreEvacuation
    simp only [Evac.restored, he, Bool.false_eq_true, if_false]
    unfold takeChain
    rw [if_neg]
    simp only [Evac.drive, Bool.false_or]
    rintro ⟨h1, -, h3⟩
    simp [h1, h3] at hc
  have hlog : evacLogged (x.evac.restored false chain) x = x := by
    simp [evacLogged, Evac.restored, he]
  rw [hx]
  refine ⟨rfl, ?_, ?_, fun _ => rfl, fun h => ?_, ?_, ?_, ?_, fun _ => ⟨rfl, rfl, rfl, rfl⟩, fun h => ?_⟩
  · simp [Evac.restored, restoredCauses, he, hl, hc]
  · simp [Evac.restored, he]
  · exact absurd (he.symm.trans h) (by decide)
  · rw [hlog]
  · rw [hlog]; simp [Evac.restored, he]
  · rw [hlog, show (x.evac.restored false chain).evacuating = false from he, Bool.and_false, alertOf_false]
    exact alerts_nil rfl
  · exact absurd (he.symm.trans h) (by decide)

/-- A retained evacuation goes on: the tone at every output, the EVACUATING change flag with its alert, and the causes. -/
theorem restores_retained {fire chain : Bool} {x : State} (he : x.evac.evacuating = true) :
    Restores fire chain x (restoreEvacuation fire chain x) := by
  obtain ⟨a, q, hF, hread, halert⟩ := toneAndFlag_form { x with evac := x.evac.restored fire chain }
  have hx : restoreEvacuation fire chain x =
      takeChain (if fire then takeCause .fire (flagEvacuating (soundTone { x with evac := x.evac.restored fire chain }))
        else flagEvacuating (soundTone { x with evac := x.evac.restored fire chain })) := by
    unfold restoreEvacuation
    dsimp only
    rw [if_pos (show (x.evac.restored fire chain).evacuating = true from he)]
  rw [takeLevels_evacuating (chain := chain) (by rw [hF]; exact he) (by rw [hF]; rfl) (by rw [hF]; rfl)
    (by rw [hF]; rfl)] at hx
  have hset : setClear (x.evac.restored fire chain).evacuating = 1 := by simp [Evac.restored, he, setClear]
  rw [hF] at hx halert
  dsimp only at halert
  rw [hset] at halert
  have hlog : ∀ e, evacLogged e x = x := fun e => by simp [evacLogged, he]
  rw [hx]
  refine ⟨rfl, ?_, ?_, fun h => ?_, fun _ => hread, ?_, ?_, ?_, fun _ => ⟨rfl, rfl, rfl, rfl⟩, fun _ h => ?_⟩
  · simp [Evac.restored, restoredCauses, he]
  · simp [he]
  · exact absurd (he.symm.trans h) (by decide)
  · rw [hlog]
  · rw [hlog]; simp [Evac.restored, he]
  · rw [hlog]
    simp only [Evac.restored, he, Bool.and_true]
    exact alerts_congr halert rfl rfl
  · exact absurd (he.symm.trans h) (by decide)

/-- A new evacuation starts with the cause `c` on the restored items. -/
theorem restores_start {fire chain : Bool} {x : State} {c : Cause} (he : x.evac.evacuating = false)
    (hl : levelsStart fire chain x.evac.causes = true)
    (hc : (x.evac.restored fire chain).causes.add c = restoredCauses fire chain x.evac.causes)
    (hn : NoneReleased x) :
    Restores fire chain x (startEvacuation c { x with evac := x.evac.restored fire chain }) := by
  rw [startEvacuation_eq c (s := { x with evac := x.evac.restored fire chain }) hn]
  dsimp only
  rw [hc]
  obtain ⟨a, hm, hread⟩ := rollAndTone_form
    { x with evac := { x.evac.restored fire chain with
        evacuating := true, causes := restoredCauses fire chain x.evac.causes } }
  generalize suspendClose (soundTone (buildRoll _)) = m at hm ⊢
  have hsame : SameJournal x m := by rw [hm]; exact ⟨rfl, rfl, rfl, rfl, rfl, rfl⟩
  rw [offerEntry_eq _ hsame]
  have hlog : ∀ e : Evac, e.evacuating = true → e.causes = restoredCauses fire chain x.evac.causes →
      evacLogged e x = offerEntry (.evacStart (restoredCauses fire chain x.evac.causes)) x := fun e h1 h2 => by
    simp [evacLogged, h1, h2, he]
  have hclear : (offerEntry (.evacStart (restoredCauses fire chain x.evac.causes)) x).changes.evacuating =
      x.changes.evacuating := by rw [offerEntry_changes]
  generalize offerEntry (.evacStart (restoredCauses fire chain x.evac.causes)) x = v at hlog hclear ⊢
  obtain ⟨q, hq, -⟩ := flagEvacuating_spec (withJournalOf m v)
  have halert := flagEvacuating_alerts (withJournalOf m v)
  have hframe : (withJournalOf m v).alertOf (!(withJournalOf m v).changes.evacuating) 6 255
      (setClear (withJournalOf m v).evac.evacuating) = x.alertOf (!x.changes.evacuating && true) 6 255 1 := by
    rw [Bool.and_true, alertOf_congr (s := x) (t := withJournalOf m v) hsame.part hsame.mask, ← hclear, hm]
    rfl
  rw [hframe] at halert
  rw [hq, hm] at halert ⊢
  refine ⟨rfl, ?_, ?_, fun h => ?_, fun _ => hread, ?_, ?_, ?_, fun h => ?_, fun _ _ => ⟨rfl, rfl, rfl, rfl⟩⟩
  · simp [withJournalOf, hl]
  · simp [withJournalOf, he]
  · cases h
  · rw [hlog _ rfl rfl]; rfl
  · rw [hlog _ rfl rfl]; simp [withJournalOf]
  · rw [hlog _ rfl rfl]
    exact alerts_congr halert rfl rfl
  · have : true = false := h.trans he
    cases this

/-- Evacuation Control's restoring, in every case. -/
theorem restoreEvacuation_restores (fire chain : Bool) {x : State} (hn : NoneReleased x) :
    Restores fire chain x (restoreEvacuation fire chain x) := by
  cases he : x.evac.evacuating
  case true => exact restores_retained he
  cases hl : levelsStart fire chain x.evac.causes
  case false => exact restores_none he hl
  cases fire
  · obtain ⟨rfl, hcmd⟩ : chain = true ∧ x.evac.causes.command = false := by simpa [levelsStart] using hl
    have hx : restoreEvacuation false true x = startEvacuation .chain { x with evac := x.evac.restored false true } := by
      simp [restoreEvacuation, Evac.restored, he, takeChain, takeCause, Evac.drive, hcmd]
    rw [hx]
    exact restores_start he hl (by simp [Causes.add, Evac.restored, restoredCauses, hcmd]) hn
  · have hs := restores_start (c := .fire) he hl (by simp [Causes.add, Evac.restored, restoredCauses]) hn
    have hx : restoreEvacuation true chain x = startEvacuation .fire { x with evac := x.evac.restored true chain } := by
      have hstart : restoreEvacuation true chain x =
          takeChain (startEvacuation .fire { x with evac := x.evac.restored true chain }) := by
        simp [restoreEvacuation, Evac.restored, he, takeCause]
      rw [hstart, takeChain_driven]
      rw [Evac.drive, hs.evac]
      simp [restoredCauses]
    rw [hx]
    exact hs

end Sys2Proof.Proofs
end

section
/-! SUPPORT. The completion of a start (R205), step by step: the blocks at their start values, the expiries taken,
Evacuation Control restored, the journal's conditions set. -/

namespace Sys2Proof.Proofs

open Machine Laws

/-! ## The blocks at their start values -/

/-- Every block at its start values, with the close state record restored (R205 steps 1 and 2). -/
def startBlocks (k : StartKind) (strap : BitVec 5) (b : State) : State := restoreClose (startValues k strap b)

theorem completeStart_eq (k : StartKind) (fire chain : Bool) (strap : BitVec 5) (b : State) :
    completeStart k fire chain strap b =
      restoreJournal (restoreEvacuation fire chain (takeExpiries (startBlocks k strap b))) := rfl

theorem restoredPhase_eq (evacuating : Bool) (p : ClosePhase) :
    restoredPhase evacuating p =
      if p = .walking ∨ p = .suspended then if evacuating then .suspended else .walking else .idle := by
  cases p <;> simp [restoredPhase]

/-- A lane after a start (R81). -/
theorem startedLanes_read (b : State) {n : Nat} (hn : n < 16) :
    Table.get Lane.cold b.startedLanes n =
      if (b.laneRecord n).enabled then Lane.started b.part.pollInterval else Lane.cold := by
  have rising : Rising b.startedLanes := List.pairwise_map.2 (List.pairwise_lt_range.filter _)
  split
  · next h =>
    refine get_of_mem rising (List.mem_map.2 ⟨n, List.mem_filter.2 ⟨List.mem_range.2 hn, h⟩, rfl⟩)
  · next h =>
    refine get_of_not_mem fun e he hi => ?_
    obtain ⟨k, hk, rfl⟩ := List.mem_map.1 he
    obtain rfl : k = n := hi
    exact h (List.mem_filter.1 hk).2

section Blocks

variable (k : StartKind) (strap : BitVec 5) {b : State}

/-- No lane is in RELEASED after a start. -/
theorem startBlocks_noneReleased : NoneReleased (startBlocks k strap b) := by
  intro n hn
  have h : (startBlocks k strap b).lane n = _ := startedLanes_read b hn
  rw [h]
  split <;> simp [Lane.started, Lane.cold]

/-- A record after a start, before any expiry: without a last punch (R42). -/
theorem startBlocks_worker (hw : Table.wf Worker.zeroed b.workers = true) (j : Nat) :
    (startBlocks k strap b).worker j = { b.worker j with lastPunch := none } :=
  get_update (f := Worker.started) hw rfl j

theorem startBlocks_canonical (hw : Table.wf Worker.zeroed b.workers = true) :
    Table.wf Worker.zeroed (startBlocks k strap b).workers = true :=
  wf_update hw Worker.started

/-- With every change flag clear, the journal's flags agree. -/
theorem startBlocks_flags : FlagsAgree (startBlocks k strap b) := ⟨fun h => (by cases h), fun h => (by cases h)⟩

/-- The due records of a start are those of the state that it found. -/
theorem startBlocks_due (hw : Table.wf Worker.zeroed b.workers = true) (i : Nat) :
    (∃ a, ((startBlocks k strap b).worker i).attendance = some a
        ∧ a.deadline ≤ (startBlocks k strap b).clock.gateTime) ↔
      ∃ a, (b.worker i).attendance = some a ∧ a.deadline ≤ b.clock.gateTime := by
  rw [startBlocks_worker k strap hw]
  exact Iff.rfl

end Blocks

/-! ## What the expiries leave -/

section Expiries

variable {y x : State}

/-- Operations on records write the three counts of the close record alone. -/
theorem pays_close (h : Pays y x) :
    x.close = { y.close with closed := x.close.closed, skipped := x.close.skipped, split := x.close.split } := by
  obtain ⟨_, _, _, _, _, _, _, _, rfl⟩ := h.form; rfl

theorem pays_link (h : Pays y x) : x.link = { y.link with upQueue := x.link.upQueue } := by
  obtain ⟨_, _, _, _, _, _, _, _, rfl⟩ := h.form; rfl

theorem pays_noneReleased (h : Pays y x) (hn : NoneReleased y) : NoneReleased x := fun n hlt => by
  rw [h.lane]; exact hn n hlt

end Expiries

/-! ## What the restoring leaves -/

namespace Restores

variable {fire chain : Bool} {x z : State}

theorem power (h : Restores fire chain x z) : z.power = x.power := by rw [h.form]
theorem clock (h : Restores fire chain x z) : z.clock = x.clock := by rw [h.form]
theorem shifts (h : Restores fire chain x z) : z.shifts = x.shifts := by rw [h.form]
theorem crews (h : Restores fire chain x z) : z.crews = x.crews := by rw [h.form]
theorem rates (h : Restores fire chain x z) : z.rates = x.rates := by rw [h.form]
theorem part (h : Restores fire chain x z) : z.part = x.part := by rw [h.form]
theorem insideCount (h : Restores fire chain x z) : z.insideCount = x.insideCount := by rw [h.form]
theorem badges (h : Restores fire chain x z) : z.badges = x.badges := by rw [h.form]
theorem laneTable (h : Restores fire chain x z) : z.laneTable = x.laneTable := by rw [h.form]
theorem lanes (h : Restores fire chain x z) : z.lanes = x.lanes := by rw [h.form]
theorem schedule (h : Restores fire chain x z) : z.schedule = x.schedule := by rw [h.form]
theorem patterns (h : Restores fire chain x z) : z.patterns = x.patterns := by rw [h.form]
theorem holding (h : Restores fire chain x z) : z.holding = x.holding := by rw [h.form]
theorem close (h : Restores fire chain x z) : z.close = { x.close with phase := z.close.phase } :=
  congrArg State.close h.form
theorem link (h : Restores fire chain x z) : z.link = { x.link with upQueue := z.link.upQueue } :=
  congrArg State.link h.form

theorem evacuating (h : Restores fire chain x z) :
    z.evac.evacuating = (x.evac.evacuating || levelsStart fire chain x.evac.causes) := by rw [h.evac]

theorem causes (h : Restores fire chain x z) : z.evac.causes = restoredCauses fire chain x.evac.causes := by rw [h.evac]

/-- An evacuation phase that differs from before is a new evacuation. -/
theorem new_of_ne (h : Restores fire chain x z) (hne : z.evac.evacuating ≠ x.evac.evacuating) :
    z.evac.evacuating = true ∧ x.evac.evacuating = false := by
  have := h.evacuating
  cases hx : x.evac.evacuating
  · exact ⟨by rwa [hx, Bool.ne_false_iff] at hne, rfl⟩
  · rw [hx, Bool.true_or] at this
    exact absurd (this.trans hx.symm) hne

theorem worker_kept (h : Restores fire chain x z) (he : z.evac.evacuating = x.evac.evacuating) (j : Nat) :
    z.worker j = x.worker j := by
  unfold State.worker; rw [(h.kept he).1]

theorem worker_built (h : Restores fire chain x z) (hw : Table.wf Worker.zeroed x.workers = true)
    (hz : z.evac.evacuating = true) (hx : x.evac.evacuating = false) (j : Nat) : z.worker j = (x.worker j).enrolled := by
  unfold State.worker
  rw [(h.built hz hx).1]
  exact get_update hw rfl j

/-- In every case a record changes in its muster mark alone. -/
theorem worker_frame (h : Restores fire chain x z) (hw : Table.wf Worker.zeroed x.workers = true) (j : Nat) :
    z.worker j = { x.worker j with muster := (z.worker j).muster } := by
  by_cases he : z.evac.evacuating = x.evac.evacuating
  · rw [h.worker_kept he]
  · obtain ⟨hz, hx⟩ := h.new_of_ne he
    rw [h.worker_built hw hz hx]; rfl

end Restores

/-- The mark of the roll, by status (R177). -/
theorem rollMark_eq (w : Worker) :
    w.rollMark =
      if w.status ≠ .free ∧ (w.presence = .inside ∨ (w.presence = .unknown ∧ w.attendance.isSome = true))
      then .unaccounted else .none := by
  unfold Worker.rollMark
  simp only [inUse_iff]

/-! ## The entry of a new evacuation -/

section Logged

variable (e : Evac) (x : State)

theorem evacLogged_link : (evacLogged e x).link = { x.link with upQueue := (evacLogged e x).link.upQueue } := by
  unfold evacLogged
  split
  · obtain ⟨c, q, h⟩ := offerEntry_form (.evacStart e.causes) x; rw [h]
  · rfl

theorem evacLogged_part : (evacLogged e x).part = x.part := by
  unfold evacLogged; split <;> simp

/-- The entry sets no change flag of the part but those of the journal. -/
theorem evacLogged_changes :
    (evacLogged e x).changes.evacuating = x.changes.evacuating
      ∧ (evacLogged e x).changes.closeDone = x.changes.closeDone := by
  unfold evacLogged
  split
  · rw [offerEntry_changes]; exact ⟨rfl, rfl⟩
  · exact ⟨rfl, rfl⟩

theorem evacLogged_flags (h : FlagsAgree x) : FlagsAgree (evacLogged e x) := by
  unfold evacLogged
  split
  · exact offerEntry_flags _ h
  · exact h

theorem evacLogged_kept (h : e.evacuating = x.evac.evacuating) : evacLogged e x = x := by
  unfold evacLogged; rw [h]; simp

end Logged

/-! ## The journal's conditions -/

/-- The journal's conditions found set raise their change flags, with frames sent (R156). -/
theorem restoreJournal_form (z : State) :
    ∃ q, restoreJournal z =
      { z with
        changes := { z.changes with
          journalHigh := z.changes.journalHigh || z.journalHigh, journalFull := z.changes.journalFull || z.journalFull }
        link := { z.link with upQueue := z.link.upQueue ++ q } } := by
  obtain ⟨q, h, -⟩ := flagJournal_spec z.journalHigh z.journalFull z
  exact ⟨q, h⟩

/-- The frame of a condition found set: SET, when its change flag rises. -/
theorem alertOf_found (s : State) (flag found : Bool) (c n : Nat) :
    s.alertOf (found && !flag) c n (setClear found) = s.alertOf (!flag && found) c n 1 := by
  cases found
  · simp [alertOf_false]
  · simp [setClear]

/-- The alerts of the journal's conditions at a start. -/
theorem restoreJournal_alerts (z : State) :
    Alerts z (restoreJournal z)
      (z.alertOf (!z.changes.journalHigh && z.journalHigh) 4 255 1
        ++ z.alertOf (!z.changes.journalFull && z.journalFull) 5 255 1) := by
  have h := flagJournal_alerts z.journalHigh z.journalFull z
  rwa [alertOf_found, alertOf_found] at h

/-- After the restoring, a journal flag already set agrees with its condition, so that the completed start's flags are the
conditions themselves; the EVACUATING flag is the phase, and CLOSE_DONE's is clear (R194, R205). -/
theorem restored_changes {fire chain : Bool} {x z : State} (h : Restores fire chain x z) (hf : FlagsAgree x)
    (he : x.changes.evacuating = false) (hc : x.changes.closeDone = false) :
    { z.changes with
        journalHigh := z.changes.journalHigh || z.journalHigh, journalFull := z.changes.journalFull || z.journalFull } =
      (⟨z.journalHigh, z.journalFull, z.evac.evacuating, false⟩ : PartChanges) := by
  have hv := evacLogged_flags z.evac x hf
  obtain ⟨h1, h2⟩ := evacLogged_changes z.evac x
  have high : z.journalHigh = (evacLogged z.evac x).journalHigh := by
    unfold State.journalHigh; rw [h.journal, h.part, evacLogged_part]
  have full : z.journalFull = (evacLogged z.evac x).journalFull := by unfold State.journalFull; rw [h.journal]
  have absorbs : ∀ {a c : Bool}, (a = true → c = true) → (a || c) = c := by decide
  rw [h.changes]
  dsimp only
  rw [h1, he, h2, hc, high, full, absorbs hv.high, absorbs hv.full, Bool.false_or]

end Sys2Proof.Proofs
end

section
/-! PROOF. What a start that completes leaves (R205): the states on its way, what each item is at its end, and the
obligation put together from these. -/

namespace Sys2Proof.Proofs

open Machine Laws

/-- The states on the way of a start of kind `k` that found the state `b`: the blocks at their start values `y`, the
expiries taken `x`, Evacuation Control restored `z`, and the completed start `t`. -/
structure StartRun (k : StartKind) (fire chain : Bool) (strap : BitVec 5) (b y x z t : State) : Prop where
  canonical : Table.wf Worker.zeroed b.workers = true
  blocks : y = startBlocks k strap b
  expiries : x = takeExpiries y
  restored : z = restoreEvacuation fire chain x
  ended : t = restoreJournal z

namespace StartRun

variable {k : StartKind} {fire chain : Bool} {strap : BitVec 5} {b y x z t : State}

/-! ## The steps -/

theorem pays (r : StartRun k fire chain strap b y x z t) : Pays y x := by rw [r.expiries]; exact takeExpiries_pays y

theorem keepsFlags (r : StartRun k fire chain strap b y x z t) : KeepsFlags y x := by
  rw [r.expiries]; exact takeExpiries_keepsFlags y

theorem restores (r : StartRun k fire chain strap b y x z t) : Restores fire chain x z := by
  have hn : NoneReleased y := by rw [r.blocks]; exact startBlocks_noneReleased k strap
  rw [r.restored]
  exact restoreEvacuation_restores fire chain (pays_noneReleased r.pays hn)

theorem canonicalX (r : StartRun k fire chain strap b y x z t) : Table.wf Worker.zeroed x.workers = true := by
  refine r.pays.canonical ?_
  rw [r.blocks]
  exact startBlocks_canonical k strap r.canonical

theorem clearX (r : StartRun k fire chain strap b y x z t) : x.changes.evacuating = false ∧ x.changes.closeDone = false :=
  ⟨r.keepsFlags.evacuating.trans (by rw [r.blocks]; rfl), r.keepsFlags.closeDone.trans (by rw [r.blocks]; rfl)⟩

/-- The end differs from the restored state in the change flags and the upward queue alone. -/
theorem form (r : StartRun k fire chain strap b y x z t) :
    t = { z with
      changes := ⟨z.journalHigh, z.journalFull, z.evac.evacuating, false⟩
      link := { z.link with upQueue := t.link.upQueue } } := by
  have hy : FlagsAgree y := by rw [r.blocks]; exact startBlocks_flags k strap
  obtain ⟨q, h⟩ := restoreJournal_form z
  rw [restored_changes r.restores (r.keepsFlags.agree hy) r.clearX.1 r.clearX.2] at h
  rw [r.ended, h]

theorem evac (r : StartRun k fire chain strap b y x z t) : t.evac = z.evac := by rw [r.form]

theorem worker (r : StartRun k fire chain strap b y x z t) (j : Nat) : t.worker j = z.worker j := by
  rw [r.form]; rfl

/-! ## Items that a start keeps or sets -/

theorem evacX (r : StartRun k fire chain strap b y x z t) : x.evac = b.evac := r.pays.evac.trans (by rw [r.blocks]; rfl)

theorem power (r : StartRun k fire chain strap b y x z t) :
    t.power = { b.power with resetActive := false, retained := true, starting := none, lastStart := k } := by
  rw [congrArg State.power r.form]
  exact r.restores.power.trans (r.pays.power.trans (by rw [r.blocks]; rfl))

theorem clock (r : StartRun k fire chain strap b y x z t) : t.clock = { b.clock with tickCount := 0 } := by
  rw [congrArg State.clock r.form]
  exact r.restores.clock.trans (r.pays.clock.trans (by rw [r.blocks]; rfl))

theorem part (r : StartRun k fire chain strap b y x z t) : t.part = b.part := by
  rw [congrArg State.part r.form]
  exact r.restores.part.trans (r.pays.part.trans (by rw [r.blocks]; rfl))

theorem laneTable (r : StartRun k fire chain strap b y x z t) : t.laneTable = b.laneTable := by
  rw [congrArg State.laneTable r.form]
  exact r.restores.laneTable.trans (r.pays.laneTable.trans (by rw [r.blocks]; rfl))

theorem lanes (r : StartRun k fire chain strap b y x z t) : t.lanes = b.startedLanes := by
  rw [congrArg State.lanes r.form]
  exact r.restores.lanes.trans (r.pays.lanes.trans (by rw [r.blocks]; rfl))

theorem holding (r : StartRun k fire chain strap b y x z t) : t.holding = [] := by
  rw [congrArg State.holding r.form]
  exact r.restores.holding.trans (r.pays.holding.trans (by rw [r.blocks]; rfl))

theorem patterns (r : StartRun k fire chain strap b y x z t) : t.patterns = b.patterns := by
  rw [congrArg State.patterns r.form]
  exact r.restores.patterns.trans (r.pays.patterns.trans (by rw [r.blocks]; rfl))

/-- The other tables and the badge map. -/
theorem tables (r : StartRun k fire chain strap b y x z t) :
    t.shifts = b.shifts ∧ t.crews = b.crews ∧ t.rates = b.rates ∧ t.schedule = b.schedule ∧ t.badges = b.badges := by
  rw [r.form]
  obtain rfl := r.blocks
  exact ⟨r.restores.shifts.trans r.pays.shifts, r.restores.crews.trans r.pays.crews,
    r.restores.rates.trans r.pays.rates, r.restores.schedule.trans r.pays.schedule,
    r.restores.badges.trans r.pays.badges⟩

/-- The Chain Port: empty but for what the start itself has sent, with the address of the straps (R188). -/
theorem link (r : StartRun k fire chain strap b y x z t) :
    t.link =
      { address := min strap.toNat 30, requests := [], upQueue := t.link.upQueue, upForward := [], downForward := [],
        lastSource := none, frameErrors := 0, requestDrops := 0, forwardDrops := 0, alertMask := b.link.alertMask,
        restart := none, upPartial := [], downPartial := [], upLine := none, downLine := none } := by
  have h : t.link = { z.link with upQueue := t.link.upQueue } := congrArg State.link r.form
  rw [h, r.restores.link, pays_link r.pays, r.blocks]
  rfl

/-- At most 6 frames wait upward (R193). -/
theorem queue (r : StartRun k fire chain strap b y x z t) : t.link.upQueue.length ≤ 6 := by
  have q : Quiet y t := by
    rw [r.ended, r.restored, r.expiries]
    exact takeExpiries_quiet.trans (restoreEvacuation_quiet.trans flagJournal_quiet)
  rcases q.queue with h | h
  · rw [h, r.blocks]; exact Nat.zero_le _
  · exact h

theorem lane (r : StartRun k fire chain strap b y x z t) {n : Nat} (hn : n < 16) :
    t.lane n =
      if (t.laneRecord n).enabled then { Lane.cold with state := .idle, pollTimer := some t.part.pollInterval }
      else Lane.cold := by
  unfold State.lane State.laneRecord
  rw [r.lanes, r.laneTable, r.part]
  exact startedLanes_read b hn

theorem changes (r : StartRun k fire chain strap b y x z t) :
    t.changes = ⟨t.journalHigh, t.journalFull, t.evac.evacuating, false⟩ := by
  rw [r.form]; rfl

/-! ## The evacuation -/

theorem evacuating (r : StartRun k fire chain strap b y x z t) :
    t.evac.evacuating = (b.evac.evacuating || fire || (chain && !b.evac.causes.command)) := by
  rw [r.evac, r.restores.evacuating, r.evacX, Bool.or_assoc]; rfl

theorem causes (r : StartRun k fire chain strap b y x z t) : t.evac.causes = restoredCauses fire chain b.evac.causes := by
  rw [r.evac, r.restores.causes, r.evacX]

theorem levels (r : StartRun k fire chain strap b y x z t) :
    t.evac.fireLevel = fire ∧ t.evac.chainLevel = chain ∧ t.evac.armed = true ∧ t.evac.fireSamples = (fire, fire)
      ∧ t.evac.chainSamples = (chain, chain) := by
  rw [r.evac, r.restores.evac]
  exact ⟨rfl, rfl, rfl, rfl, rfl⟩

/-- The bells are idle while the part is not evacuating (R170). -/
theorem bellsIdle (r : StartRun k fire chain strap b y x z t) (h : t.evac.evacuating = false) (o : Nat) :
    t.arbiter o = Arbiter.idle := by
  have ha : t.arbiters = [] := by
    rw [congrArg State.arbiters r.form]
    exact (r.restores.idle (r.evac ▸ h)).trans (r.pays.arbiters.trans (by rw [r.blocks]; rfl))
  unfold State.arbiter; rw [ha]; rfl

/-- They sound the tone while it is (R168, R170). -/
theorem bellsTone (r : StartRun k fire chain strap b y x z t) (h : t.evac.evacuating = true) {o : Nat} (ho : o < 4) :
    ∃ cd, t.arbiter o = ⟨some cd, none, false⟩ ∧ cd.priority = 4 ∧ cd.passes = .endless
      ∧ cd.copy = t.pattern t.part.evacPattern ∧ cd.segment = 0 := by
  have ha : t.arbiter o = x.toneArbiter :=
    (congrArg (fun u => State.arbiter u o) r.form).trans (r.restores.tone (r.evac ▸ h) o ho)
  have hpat : ∀ n, t.pattern n = x.pattern n := fun n => by
    unfold State.pattern; rw [congrArg State.patterns r.form, ← r.restores.patterns]
  have hpart : t.part = x.part := by rw [congrArg State.part r.form, ← r.restores.part]
  exact ⟨_, ha, rfl, rfl, by rw [hpat, hpart], rfl⟩

/-- A roll that is not built anew keeps its numbers. -/
theorem rollKept (r : StartRun k fire chain strap b y x z t) (h : t.evac.evacuating = b.evac.evacuating) :
    t.evac.snapshot = b.evac.snapshot ∧ t.evac.rollSize = b.evac.rollSize ∧ t.evac.unaccounted = b.evac.unaccounted := by
  rw [r.evac] at h ⊢
  have := (r.restores.kept (h.trans (by rw [r.evacX]))).2
  rwa [r.evacX] at this

/-- A new evacuation builds the roll from the records that the expiries left (R175, R177). -/
theorem rollBuilt (r : StartRun k fire chain strap b y x z t) (h : t.evac.evacuating = true)
    (hb : b.evac.evacuating = false) :
    t.evac.snapshot = (if b.clock.valid then .time b.clock.gateTime else .unset)
      ∧ t.evac.rollSize = t.evac.unaccounted ∧ t.evac.unaccounted = t.unaccountedRecords
      ∧ ∀ j, t.worker j =
          { x.worker j with muster :=
              if (x.worker j).status ≠ .free
                  ∧ ((x.worker j).presence = .inside
                    ∨ ((x.worker j).presence = .unknown ∧ (x.worker j).attendance.isSome = true))
                then .unaccounted else .none } := by
  have hz : z.evac.evacuating = true := by rw [← r.evac]; exact h
  have hx : x.evac.evacuating = false := by rw [r.evacX]; exact hb
  obtain ⟨-, hsnap, hsize, hcount⟩ := r.restores.built hz hx
  have hrecords : t.unaccountedRecords = z.unaccountedRecords := by rw [r.form]; rfl
  have hclock : x.clock = { b.clock with tickCount := 0 } := r.pays.clock.trans (by rw [r.blocks]; rfl)
  have hnow : stampOf x.now = if b.clock.valid then .time b.clock.gateTime else .unset := by
    unfold State.now
    rw [hclock]
    cases b.clock.valid <;> rfl
  refine ⟨?_, ?_, ?_, fun j => ?_⟩
  · rw [r.evac, hsnap, hnow]
  · rw [r.evac, hsize]
  · rw [r.evac, hcount, hrecords]
  · rw [r.worker, r.restores.worker_built r.canonicalX hz hx, Worker.enrolled, rollMark_eq]

/-! ## The close -/

/-- The phase of the close after a start, from the phase found and the evacuation before and after (R137, R141). -/
theorem restartedPhase {old new : Bool} (h : old = true → new = true) (p : ClosePhase) :
    (if new && !old then suspendedPhase (restoredPhase old p) else restoredPhase old p) =
      if p = .walking ∨ p = .suspended then if new then .suspended else .walking else .idle := by
  cases old
  · cases new <;> cases p <;> rfl
  · rw [h rfl]; cases p <;> rfl

theorem close (r : StartRun k fire chain strap b y x z t) :
    t.close =
      { b.close with
        phase :=
          if b.close.phase = .walking ∨ b.close.phase = .suspended then
            if t.evac.evacuating then .suspended else .walking
          else .idle
        gatherTimer := none, closed := t.close.closed, skipped := t.close.skipped, split := t.close.split } := by
  have hz : t.close = z.close := by rw [r.form]
  have hx : x.close.phase = restoredPhase b.evac.evacuating b.close.phase :=
    r.pays.closePhase.trans (by rw [r.blocks]; rfl)
  have hphase : z.close.phase =
      if b.close.phase = .walking ∨ b.close.phase = .suspended then
        if t.evac.evacuating then .suspended else .walking
      else .idle := by
    rw [r.restores.phase, hx, r.evac, r.evacX]
    refine restartedPhase (fun h => ?_) _
    rw [r.restores.evacuating, r.evacX, h, Bool.true_or]
  rw [← hphase, hz, r.restores.close, pays_close r.pays, r.blocks]
  rfl

/-! ## The records -/

theorem workerY (r : StartRun k fire chain strap b y x z t) (j : Nat) :
    y.worker j = { b.worker j with lastPunch := none } := by
  rw [r.blocks]; exact startBlocks_worker k strap r.canonical j

/-- A record changes after the expiries in its muster mark alone. -/
theorem worker_frame (r : StartRun k fire chain strap b y x z t) (j : Nat) :
    t.worker j = { x.worker j with muster := (t.worker j).muster } := by
  rw [r.worker]; exact r.restores.worker_frame r.canonicalX j

theorem worker_kept (r : StartRun k fire chain strap b y x z t) (h : t.evac.evacuating = b.evac.evacuating) (j : Nat) :
    t.worker j = x.worker j := by
  rw [r.worker]
  rw [r.evac] at h
  exact r.restores.worker_kept (h.trans (by rw [r.evacX])) j

theorem lastPunch (r : StartRun k fire chain strap b y x z t) (j : Nat) : (t.worker j).lastPunch = none := by
  rw [r.worker_frame]
  exact (r.keepsFlags.lastPunch j).trans (by rw [r.workerY])

theorem muster_kept (r : StartRun k fire chain strap b y x z t) (h : t.evac.evacuating = b.evac.evacuating) (j : Nat) :
    (t.worker j).muster = (b.worker j).muster := by
  rw [r.worker_kept h, r.pays.muster, r.workerY]

/-- A due record has expired. -/
theorem worker_expired (r : StartRun k fire chain strap b y x z t) (hv : b.clock.valid = true)
    (he : b.evac.evacuating = false) {j : Nat}
    (hd : ∃ a, (b.worker j).attendance = some a ∧ a.deadline ≤ b.clock.gateTime) :
    (t.worker j).attendance = none ∧ (t.worker j).presence = .unknown := by
  have hx : (x.worker j).attendance = none ∧ (x.worker j).presence = .unknown := by
    obtain rfl := r.blocks
    rw [r.expiries]
    exact takeExpiries_expired hv he (startBlocks_canonical k strap r.canonical)
      ((startBlocks_due k strap r.canonical j).2 hd)
  rw [r.worker_frame]
  exact hx

/-- A record that is not due stands but for its last punch and its mark. -/
theorem worker_stands (r : StartRun k fire chain strap b y x z t) {j : Nat}
    (hd : b.clock.valid = false ∨ b.evac.evacuating = true
      ∨ ∀ a, (b.worker j).attendance = some a → b.clock.gateTime < a.deadline) :
    t.worker j = { b.worker j with lastPunch := none, muster := (t.worker j).muster } := by
  have hx : x.worker j = y.worker j := by
    obtain rfl := r.blocks
    rw [r.expiries]
    rcases hd with hv | he | hd
    · rw [takeExpiries_unset (s := startBlocks k strap b) hv]
    · rw [takeExpiries_evacuating (s := startBlocks k strap b) he]
    · refine takeExpiries_stands (startBlocks_canonical k strap r.canonical) ?_
      rw [startBlocks_due k strap r.canonical]
      rintro ⟨a, ha, hle⟩
      exact (hd a ha).not_ge hle
  rw [r.worker_frame, hx, r.workerY]

/-- With no record due the expiries change nothing. -/
theorem noneDue (r : StartRun k fire chain strap b y x z t)
    (hd : b.clock.valid = false ∨ b.evac.evacuating = true
      ∨ ∀ i a, (b.worker i).attendance = some a → b.clock.gateTime < a.deadline) : x = y := by
  obtain rfl := r.blocks
  rw [r.expiries]
  rcases hd with hv | he | hd
  · exact takeExpiries_unset hv
  · exact takeExpiries_evacuating he
  · refine takeExpiries_none (startBlocks_canonical k strap r.canonical) fun i => ?_
    rw [startBlocks_due k strap r.canonical]
    rintro ⟨a, ha, hle⟩
    exact (hd i a ha).not_ge hle

theorem insideCount (r : StartRun k fire chain strap b y x z t) : t.insideCount = x.insideCount := by
  rw [congrArg State.insideCount r.form]; exact r.restores.insideCount

/-- The state in which the journal has taken what a new evacuation offers. -/
theorem journal (r : StartRun k fire chain strap b y x z t) : t.journal = (evacLogged t.evac x).journal := by
  rw [congrArg State.journal r.form, r.evac]; exact r.restores.journal

/-- With no expiry and no new evacuation the inside count, the close's counts and the journal are kept. -/
theorem countsKept (r : StartRun k fire chain strap b y x z t)
    (hd : b.clock.valid = false ∨ b.evac.evacuating = true
      ∨ ∀ i a, (b.worker i).attendance = some a → b.clock.gateTime < a.deadline) :
    t.insideCount = b.insideCount ∧ t.close.closed = b.close.closed ∧ t.close.skipped = b.close.skipped
      ∧ t.close.split = b.close.split ∧ (t.evac.evacuating = b.evac.evacuating → t.journal = b.journal) := by
  have hx := r.noneDue hd
  have hc : t.close = { x.close with phase := z.close.phase } := by
    rw [congrArg State.close r.form]; exact r.restores.close
  have hj : t.evac.evacuating = b.evac.evacuating → t.journal = x.journal := fun h => by
    rw [r.journal, evacLogged_kept _ _ (h.trans (by rw [r.evacX]))]
  rw [r.insideCount, hc]
  rw [hx, r.blocks] at hj ⊢
  exact ⟨rfl, rfl, rfl, rfl, hj⟩

/-! ## The order of what is sent -/

/-- The alert of EVACUATING is offered after the entry of a new evacuation (R171; log entry 13). -/
theorem evacuatingAlert (r : StartRun k fire chain strap b y x z t) :
    Alerts (evacLogged t.evac x) z ((evacLogged t.evac x).alertOf t.evac.evacuating 6 255 1) := by
  have h := r.restores.alerts
  rw [r.clearX.1, Bool.not_false, Bool.true_and, ← r.evac] at h
  rwa [alertOf_congr (evacLogged_part _ _) (by rw [evacLogged_link])]

/-- The alerts of the journal's conditions come last (R205 step 5). -/
theorem journalAlerts (r : StartRun k fire chain strap b y x z t) :
    Alerts z t
      (z.alertOf (!(evacLogged t.evac x).changes.journalHigh && t.journalHigh) 4 255 1
        ++ z.alertOf (!(evacLogged t.evac x).changes.journalFull && t.journalFull) 5 255 1) := by
  have h := restoreJournal_alerts z
  have hc := r.restores.changes
  have high : t.journalHigh = z.journalHigh := by rw [r.form]; rfl
  have full : t.journalFull = z.journalFull := by rw [r.form]; rfl
  rw [← r.ended, hc, ← r.evac] at h
  rw [high, full]
  exact h

theorem link_logged (r : StartRun k fire chain strap b y x z t) :
    t.link = { (evacLogged t.evac x).link with upQueue := t.link.upQueue } := by
  have h : t.link = { z.link with upQueue := t.link.upQueue } := congrArg State.link r.form
  rw [evacLogged_link]
  exact h.trans (by rw [r.restores.link])

end StartRun

end Sys2Proof.Proofs
end

section
/-! PROOF. What a start that completes leaves: the obligation. -/

namespace Sys2Proof.Proofs

open Machine Laws

/-- The state whose start values a start takes: the reset's at a cold start, the found one at a warm start. -/
def startFound (k : StartKind) (s : State) : State := if k = .cold then { State.reset with pending := s.pending } else s

theorem startFound_warm {k : StartKind} (h : k ≠ .cold) (s : State) : startFound k s = s := if_neg h

theorem startFound_canonical (k : StartKind) {s : State} (h : Table.wf Worker.zeroed s.workers = true) :
    Table.wf Worker.zeroed (startFound k s).workers = true := by
  cases k
  case cold => rfl
  all_goals exact h

/-- A start completes through the states of a run. -/
theorem exec_startComplete_run (fire chain : Bool) (strap : BitVec 5) {s : State} {k : StartKind}
    (hk : s.power.starting = some k) (hm : s.power.mainPower = true) (hw : Table.wf Worker.zeroed s.workers = true) :
    ∃ y x z t, exec (.startComplete fire chain strap) s = .next t
      ∧ StartRun k fire chain strap { startFound k s with power := s.power } y x z t := by
  have hd : (if k = .cold then coldDomain s else s) = { startFound k s with power := s.power } := by
    cases k <;> rfl
  have hrun : startComplete fire chain strap s =
      completeStart k fire chain strap { startFound k s with power := s.power } := by
    rw [← hd]; simp [startComplete, hk, hm]
  exact ⟨_, _, _, _, congrArg Host.Outcome.next (hrun.trans (completeStart_eq ..)),
    startFound_canonical k hw, rfl, rfl, rfl, rfl⟩

theorem evacLogged_eq (e : Evac) (x : State) :
    evacLogged e x = if e.evacuating && !x.evac.evacuating then offerEntry (.evacStart e.causes) x else x := rfl

/-- The entry offered and the alert of EVACUATING sent: the upward queue is the one of `z`. -/
def evacAlerted (e : Evac) (x z : State) : State :=
  { evacLogged e x with link := { (evacLogged e x).link with upQueue := z.link.upQueue } }

namespace StartRun

variable {k : StartKind} {fire chain : Bool} {strap : BitVec 5} {b y x z t : State}

/-- The blocks' start values, read off the completed start. -/
theorem blocks_of_end (r : StartRun k fire chain strap b y x z t) :
    y = { b with
      power := t.power, clock := { b.clock with tickCount := 0 }, workers := y.workers, lanes := t.lanes
      arbiters := [], holding := [], changes := ⟨false, false, false, false⟩
      link := { t.link with upQueue := [], alertMask := b.link.alertMask }
      close :=
        { b.close with
          phase :=
            if b.close.phase = .walking ∨ b.close.phase = .suspended then
              if b.evac.evacuating then .suspended else .walking
            else .idle
          gatherTimer := none } } := by
  rw [r.power, r.lanes, r.link, r.blocks, ← restoredPhase_eq]
  rfl

/-- The journal's alerts follow the one of EVACUATING. -/
theorem journalAlerts_last (r : StartRun k fire chain strap b y x z t) :
    Alerts (evacAlerted t.evac x z) t
      ((evacAlerted t.evac x z).alertOf (!(evacLogged t.evac x).changes.journalHigh && t.journalHigh) 4 255 1
        ++ (evacAlerted t.evac x z).alertOf (!(evacLogged t.evac x).changes.journalFull && t.journalFull) 5 255 1) := by
  have hpart : z.part = (evacAlerted t.evac x z).part := r.restores.part.trans (evacLogged_part _ _).symm
  have hmask : z.link.alertMask = (evacAlerted t.evac x z).link.alertMask := by
    rw [r.restores.link]
    exact (congrArg Link.alertMask (evacLogged_link t.evac x)).symm
  have h := r.journalAlerts
  rw [alertOf_congr hpart hmask, alertOf_congr hpart hmask] at h
  exact alerts_congr h rfl rfl

end StartRun

/-- Settles O8: the completion runs through the blocks' start values, the expiries, the restoring of Evacuation Control
and the journal's conditions (`StartRun`), and each item is read off that run. -/
theorem startValues : Obligations.StartValues := by
  unfold Obligations.StartValues
  intro fire chain strap s k hk hm hw
  obtain ⟨y, x, z, t, hrun, r⟩ := exec_startComplete_run fire chain strap hk hm hw
  obtain ⟨hfire, hchain, harmed, hfireSamples, hchainSamples⟩ := r.levels
  refine ⟨t, hrun, by rw [r.power, ← hm], by rw [r.link], by rw [r.link], by rw [r.link], by rw [r.link],
    by rw [r.link], by rw [r.link], by rw [r.link], by rw [r.link], by rw [r.link], by rw [r.link], by rw [r.link],
    r.queue, by rw [r.clock], r.holding, fun n => r.lane, r.lastPunch, hfire, hchain, harmed, hfireSamples,
    hchainSamples, fun h => ?_, by rw [r.causes]; rfl, r.bellsIdle, fun h o => r.bellsTone h, r.changes,
    by rw [r.close], fun hwarm => ?_, ?_⟩
  · rw [r.evacuating, h, Bool.or_true, Bool.true_or]
  · have r : StartRun k fire chain strap s y x z t := by rw [startFound_warm hwarm] at r; exact r
    obtain ⟨hshifts, hcrews, hrates, hschedule, hbadges⟩ := r.tables
    exact ⟨hshifts, hcrews, hrates, r.part, r.laneTable, hschedule, r.patterns, hbadges, by rw [r.link], r.clock,
      by rw [r.causes]; rfl, by rw [r.causes]; rfl, r.evacuating, r.close,
      fun i => ⟨fun hv he hd => r.worker_expired hv he hd, r.worker_stands, fun h => r.muster_kept h i⟩, r.rollKept, r.countsKept⟩
  · have hlogged := evacLogged_eq t.evac x
    rw [r.evacX] at hlogged
    exact ⟨startFound k s, y, x, evacLogged t.evac x, evacAlerted t.evac x z, rfl, r.blocks_of_end, r.workerY,
      r.expiries, hlogged, r.journal, r.insideCount, rfl, alerts_congr r.evacuatingAlert rfl rfl, r.link_logged,
      r.journalAlerts_last, r.worker_kept, r.rollBuilt⟩

end Sys2Proof.Proofs
end

section
/-! SUPPORT. Every operation of the blocks keeps the tables in their canonical form (log entry 36): what sends frames or
writes the journal touches no table, and every write of a table goes through `Table.set` or `Table.update`. -/

namespace Sys2Proof.Proofs

open Machine Laws

/-! ## Tables made anew -/

/-- A table listed from rising indices, none with the cold-start entry, is canonical. -/
theorem wf_map {α : Type} [DecidableEq α] {d : α} {l : List Nat} (hl : l.Pairwise (· < ·)) {f : Nat → α}
    (hf : ∀ n, f n ≠ d) : Table.wf d (l.map fun n => (n, f n)) = true :=
  wf_iff.2 ⟨List.pairwise_map.2 hl, by simp [hf]⟩

/-- A holding entry that TOTALS LATCH writes carries a time or the UNSET flag, never NEVER (R122). -/
theorem latched_ne_never (s : State) (i : Nat) : s.latched i ≠ Holding.never := by
  intro h
  have hstamp : stampOf s.now = .never := congrArg Holding.stamp h
  cases hn : s.now <;> rw [hn] at hstamp <;> cases hstamp

theorem laneStarted_ne_cold (interval : Nat) : Lane.started interval ≠ Lane.cold := by
  intro h
  cases congrArg Lane.state h

section Shared

variable {s t : State}

/-! ## Shared operations -/

/-- A fold of steps that keep the tables canonical keeps them so. -/
theorem foldl_canonical {β : Type} {f : State → β → State} (hf : ∀ u b, TablesCanonical u → TablesCanonical (f u b))
    (l : List β) (h : TablesCanonical s) : TablesCanonical (l.foldl f s) :=
  List.foldlRecOn l f h fun u hu b _ => hf u b hu

theorem sends_canonical (hst : Sends s t) (h : TablesCanonical s) : TablesCanonical t := by
  obtain ⟨q, rfl, -⟩ := hst
  exact { h with }

theorem pays_canonical (hst : Pays s t) (h : TablesCanonical s) : TablesCanonical t := by
  have hw := hst.canonical h.workers
  obtain ⟨_, _, _, _, _, _, _, _, rfl⟩ := hst.form
  exact { h with workers := hw }

theorem setWorker_canonical {i : Nat} {w : Worker} (h : TablesCanonical s) : TablesCanonical (s.setWorker i w) :=
  { h with workers := wf_set h.workers i w }

theorem setLane_canonical {n : Nat} {l : Lane} (h : TablesCanonical s) : TablesCanonical (s.setLane n l) :=
  { h with lanes := wf_set h.lanes n l }

theorem setArbiter_canonical {o : Nat} {a : Arbiter} (h : TablesCanonical s) : TablesCanonical (s.setArbiter o a) :=
  { h with arbiters := wf_set h.arbiters o a }

theorem offerEntry_canonical {b : EntryBody} (h : TablesCanonical s) : TablesCanonical (offerEntry b s) :=
  pays_canonical (offerEntry_pays b s) h

theorem takeExpiries_canonical (h : TablesCanonical s) : TablesCanonical (takeExpiries s) :=
  pays_canonical (takeExpiries_pays s) h

theorem setConditions_canonical {n : Nat} {c : LaneConditions} (h : TablesCanonical s) :
    TablesCanonical (setConditions n c s) :=
  sends_canonical (setConditions_spec n c s) (setLane_canonical h)

theorem flagJournal_canonical {high full : Bool} (h : TablesCanonical s) : TablesCanonical (flagJournal high full s) :=
  sends_canonical (flagJournal_spec high full s) { h with }

theorem updateJournalConditions_canonical {before : State} (h : TablesCanonical s) :
    TablesCanonical (updateJournalConditions before s) :=
  flagJournal_canonical h

theorem flagEvacuating_canonical (h : TablesCanonical s) : TablesCanonical (flagEvacuating s) :=
  sends_canonical (flagEvacuating_spec s) { h with }

theorem flagCloseDone_canonical (h : TablesCanonical s) : TablesCanonical (flagCloseDone s) :=
  sends_canonical (flagCloseDone_spec s) { h with }

/-! ## Lanes -/

theorem endRelease_canonical {n : Nat} {next : LaneState} (h : TablesCanonical s) :
    TablesCanonical (endRelease n next s) :=
  pays_canonical (endRelease_pays n next s) (setLane_canonical h)

theorem loseLane_canonical {n : Nat} (h : TablesCanonical s) : TablesCanonical (loseLane n s) := by
  unfold loseLane
  refine setConditions_canonical (setLane_canonical ?_)
  split
  · exact endRelease_canonical h
  · exact setLane_canonical h
  · exact setLane_canonical h

theorem missedReply_canonical {n : Nat} (h : TablesCanonical s) : TablesCanonical (missedReply n s) := by
  unfold missedReply
  dsimp only
  split
  · exact setLane_canonical h
  split
  · exact loseLane_canonical (setLane_canonical h)
  · exact setLane_canonical h

theorem goodReply_canonical {n : Nat} (h : TablesCanonical s) : TablesCanonical (goodReply n s) := by
  unfold goodReply
  dsimp only
  split
  · split
    · exact setConditions_canonical (setLane_canonical h)
    · exact setLane_canonical h
  · exact setLane_canonical h

theorem endExchange_canonical {n : Nat} (h : TablesCanonical s) : TablesCanonical (endExchange n s) :=
  setLane_canonical h

theorem headEvent_canonical {n : Nat} {bit : Bool} {act : State → State}
    (ha : ∀ u, TablesCanonical u → TablesCanonical (act u)) (h : TablesCanonical s) :
    TablesCanonical (headEvent n bit act s) := by
  unfold headEvent
  split
  · dsimp only
    split
    · exact goodReply_canonical (endExchange_canonical h)
    · split
      · exact goodReply_canonical (setLane_canonical (endExchange_canonical h))
      · exact ha _ (goodReply_canonical (setLane_canonical (endExchange_canonical h)))
  · exact h

theorem sendVerdict_canonical {n : Nat} {v : Verdict} {d : Nat} (h : TablesCanonical s) :
    TablesCanonical (sendVerdict n v d s) :=
  setLane_canonical h

theorem stampPunch_canonical {n i : Nat} (h : TablesCanonical s) : TablesCanonical (stampPunch n i s) :=
  setWorker_canonical h

theorem openLane_canonical {n : Nat} (h : TablesCanonical s) : TablesCanonical (openLane n s) := setLane_canonical h

theorem releaseLane_canonical {n : Nat} {p : Option ReleasedPunch} (h : TablesCanonical s) :
    TablesCanonical (releaseLane n p s) :=
  setLane_canonical h

theorem commitPunch_canonical {n : Nat} {p : ReleasedPunch} {free : Bool} (h : TablesCanonical s) :
    TablesCanonical (commitPunch n p free s) :=
  pays_canonical (commitPunch_pays n p free s) h

theorem refusePunch_canonical {n c : Nat} {k : HeadKey} {r : Reason} (h : TablesCanonical s) :
    TablesCanonical (refusePunch n c k r s) := by
  unfold refusePunch
  refine offerEntry_canonical (setLane_canonical (sendVerdict_canonical ?_))
  split
  · split
    · exact stampPunch_canonical h
    · exact h
  · exact h

theorem musterPunch_canonical {n c : Nat} (h : TablesCanonical s) : TablesCanonical (musterPunch n c s).1 := by
  unfold musterPunch
  split
  · exact offerEntry_canonical h
  · refine offerEntry_canonical ?_
    split
    · exact { setWorker_canonical h with }
    · exact h

theorem evaluatePunch_canonical {n c : Nat} {k : HeadKey} (h : TablesCanonical s) :
    TablesCanonical (evaluatePunch n c k s) := by
  unfold evaluatePunch
  split
  · dsimp only
    split
    · exact commitPunch_canonical (sendVerdict_canonical (stampPunch_canonical h))
    · exact releaseLane_canonical (sendVerdict_canonical (stampPunch_canonical h))
  · exact refusePunch_canonical h
  · exact sendVerdict_canonical h
  · exact sendVerdict_canonical (musterPunch_canonical h)

theorem punchTaken_canonical {n c : Nat} {k : HeadKey} (h : TablesCanonical s) :
    TablesCanonical (punchTaken n c k s) := by
  unfold punchTaken
  split
  · exact evaluatePunch_canonical h
  · split
    · exact evaluatePunch_canonical h
    · exact sendVerdict_canonical h
  · exact sendVerdict_canonical h

theorem doorOpened_canonical {n : Nat} (h : TablesCanonical s) : TablesCanonical (doorOpened n s) := by
  unfold doorOpened
  dsimp only
  split
  · split
    · exact commitPunch_canonical (openLane_canonical h)
    · exact openLane_canonical h
  · split
    · exact offerEntry_canonical (setConditions_canonical (openLane_canonical h))
    · exact openLane_canonical h
  · exact h

theorem doorClosed_canonical {n : Nat} (h : TablesCanonical s) : TablesCanonical (doorClosed n s) := by
  unfold doorClosed
  dsimp only
  split
  · exact setConditions_canonical (setLane_canonical h)
  · exact h

theorem tamperTaken_canonical {n : Nat} {on : Bool} (h : TablesCanonical s) : TablesCanonical (tamperTaken n on s) :=
  setConditions_canonical h

theorem setMode_canonical {n : Nat} {m : LaneMode} (h : TablesCanonical s) : TablesCanonical (setMode n m s) := by
  unfold setMode
  dsimp only
  split
  · exact endRelease_canonical (setLane_canonical h)
  split
  · exact setLane_canonical (setLane_canonical h)
  · exact setLane_canonical h

theorem disableLane_canonical {n : Nat} (h : TablesCanonical s) : TablesCanonical (disableLane n s) :=
  setConditions_canonical (setLane_canonical (endRelease_canonical h))

theorem laneWritten_canonical {before : State} {n : Nat} (h : TablesCanonical s) :
    TablesCanonical (laneWritten before s n) := by
  unfold laneWritten
  split
  · exact setLane_canonical h
  · exact disableLane_canonical h
  · exact h

/-! ## Bells -/

theorem ringOutputs_canonical {m : Byte} {r : BellRequest} (h : TablesCanonical s) :
    TablesCanonical (ringOutputs m r s) :=
  foldl_canonical (f := ringOutput r) (fun _ _ => setArbiter_canonical) _ h

theorem fireEntry_canonical {t i : Nat} (h : TablesCanonical s) : TablesCanonical (fireEntry t s i) := by
  unfold fireEntry
  dsimp only
  split
  · exact ringOutputs_canonical h
  · exact h

theorem fireBells_canonical {previous new : Nat} (h : TablesCanonical s) :
    TablesCanonical (fireBells previous new s) :=
  foldl_canonical (f := fireAt) (fun _ t hu => foldl_canonical (f := fireEntry t) (fun _ _ => fireEntry_canonical) _ hu)
    _ h

theorem soundTone_canonical (h : TablesCanonical s) : TablesCanonical (soundTone s) :=
  foldl_canonical (fun _ _ => setArbiter_canonical) _ h

/-! ## Evacuation -/

theorem buildRoll_canonical (h : TablesCanonical s) : TablesCanonical (buildRoll s) :=
  { h with workers := wf_update h.workers _ }

theorem evacuateLane_canonical {n : Nat} (h : TablesCanonical s) : TablesCanonical (evacuateLane s n) := by
  unfold evacuateLane
  split
  · exact endRelease_canonical h
  · exact h

theorem restartHeld_canonical {n : Nat} (h : TablesCanonical s) : TablesCanonical (restartHeld s n) := by
  unfold restartHeld
  split
  · exact setLane_canonical h
  · exact h

theorem suspendClose_canonical (h : TablesCanonical s) : TablesCanonical (suspendClose s) := by
  unfold suspendClose
  split
  · exact { h with }
  · exact h

theorem resumeClose_canonical (h : TablesCanonical s) : TablesCanonical (resumeClose s) := by
  unfold resumeClose
  split
  · exact { h with }
  · exact h

theorem idleBells_canonical (h : TablesCanonical s) : TablesCanonical (idleBells s) := { h with arbiters := wf_nil }

theorem startEvacuation_canonical {c : Cause} (h : TablesCanonical s) : TablesCanonical (startEvacuation c s) := by
  unfold startEvacuation
  refine flagEvacuating_canonical (offerEntry_canonical (suspendClose_canonical (soundTone_canonical
    (buildRoll_canonical ?_))))
  exact foldl_canonical (f := evacuateLane) (fun _ _ => evacuateLane_canonical) _ { h with }

theorem takeCause_canonical {c : Cause} (h : TablesCanonical s) : TablesCanonical (takeCause c s) := by
  unfold takeCause
  split
  · exact { h with }
  · exact startEvacuation_canonical h

theorem takeChain_canonical (h : TablesCanonical s) : TablesCanonical (takeChain s) := by
  unfold takeChain
  split
  · exact takeCause_canonical h
  · exact h

theorem clearEvacuation_canonical (h : TablesCanonical s) : TablesCanonical (clearEvacuation s) := by
  unfold clearEvacuation
  refine flagEvacuating_canonical (offerEntry_canonical (takeExpiries_canonical (resumeClose_canonical
    (idleBells_canonical ?_))))
  exact foldl_canonical (f := restartHeld) (fun _ _ => restartHeld_canonical) _
    { h with workers := wf_update h.workers _ }

end Shared

/-! ## The blocks that answer requests -/

section Blocks

variable {s : State}

/-- A block that refuses with the state as it is, or else answers with canonical tables. -/
theorem refused_canonical {bad : Prop} [Decidable bad] {c : ReplyCode} {a : Answer} (h : TablesCanonical s)
    (ha : TablesCanonical a.state) : TablesCanonical (if bad then answer c s else a).state := by
  split
  · exact h
  · exact ha

theorem accepted_canonical {c : ReplyCode} (h : TablesCanonical s) : TablesCanonical (answer c s).state := h

theorem statusRead_canonical (clear : Byte) (h : TablesCanonical s) : TablesCanonical (statusRead clear s).state := by
  unfold statusRead
  split
  · exact h
  · dsimp only
    split
    · exact { h with lanes := wf_update h.lanes _ }
    · exact h

theorem alertMaskSet_canonical (mask enable : Byte) (h : TablesCanonical s) :
    TablesCanonical (alertMaskSet mask enable s).state := by
  unfold alertMaskSet
  split
  · exact h
  · exact { h with }

theorem writeLanes_canonical {first : Nat} {l : List LaneRecord} (h : TablesCanonical s) :
    TablesCanonical (writeLanes first l s) :=
  foldl_canonical (f := laneWritten s) (fun _ _ => laneWritten_canonical) _
    { h with laneTable := wf_setRun first l h.laneTable }

/-- A run is stored record by record, each by `Table.set`, or refused (R199). -/
theorem writeRun_canonical (t : TableId) (first n : Nat) (records : List Byte) (h : TablesCanonical s) :
    TablesCanonical (writeRun t first n records s).state := by
  cases t <;> unfold writeRun <;> dsimp only <;> (split; case h_2 => exact h)
  · exact { h with shifts := wf_setRun first _ h.shifts }
  · exact { h with crews := wf_setRun first _ h.crews }
  · exact { h with rates := wf_setRun first _ h.rates }
  · exact { h with schedule := wf_setRun first _ h.schedule }
  · exact { h with patterns := wf_setRun first _ h.patterns }
  · exact writeLanes_canonical h
  · exact updateJournalConditions_canonical { h with }

theorem tableWrite_canonical (table first count : Byte) (records : List Byte) (h : TablesCanonical s) :
    TablesCanonical (tableWrite table first count records s).state := by
  unfold tableWrite
  split
  · exact h
  · exact refused_canonical h (refused_canonical h (writeRun_canonical _ _ _ _ h))

theorem tableRead_canonical (table first count : Byte) (h : TablesCanonical s) :
    TablesCanonical (tableRead table first count s).state := by
  unfold tableRead
  split
  · exact h
  · exact refused_canonical h h

theorem timeSet_canonical (time : Word) (offset : Byte) (h : TablesCanonical s) :
    TablesCanonical (timeSet time offset s).state :=
  refused_canonical h (takeExpiries_canonical { offerEntry_canonical h with })

theorem timeSlew_canonical (amount : Half) (h : TablesCanonical s) : TablesCanonical (timeSlew amount s).state :=
  refused_canonical h { h with }

theorem workerSet_canonical (index : Half) (status crew rateClass flags : Byte) (h : TablesCanonical s) :
    TablesCanonical (workerSet index status crew rateClass flags s).state := by
  refine refused_canonical h ?_
  split
  · exact h
  · exact refused_canonical h (setWorker_canonical h)

theorem workerFree_canonical (index : Half) (h : TablesCanonical s) : TablesCanonical (workerFree index s).state :=
  refused_canonical h (refused_canonical h (refused_canonical h (refused_canonical h
    { h with workers := wf_set h.workers index.toNat Worker.zeroed })))

theorem presenceSet_canonical (index : Half) (presence : Byte) (h : TablesCanonical s) :
    TablesCanonical (presenceSet index presence s).state := by
  refine refused_canonical h ?_
  split
  · exact h
  · refine refused_canonical h (offerEntry_canonical ?_)
    exact { setWorker_canonical (pays_canonical (setPresence_pays _ _ s) h) with }

theorem badgeAdd_canonical (code : Word) (index : Half) (h : TablesCanonical s) :
    TablesCanonical (badgeAdd code index s).state :=
  refused_canonical h (refused_canonical h (refused_canonical h (refused_canonical h (refused_canonical h { h with }))))

theorem badgeRemove_canonical (code : Word) (h : TablesCanonical s) : TablesCanonical (badgeRemove code s).state :=
  refused_canonical h (refused_canonical h { h with })

theorem badgeFind_canonical (code : Word) (h : TablesCanonical s) : TablesCanonical (badgeFind code s).state := by
  refine refused_canonical h ?_
  split <;> exact h

theorem laneMode_canonical (lane : Byte) (m : LaneMode) (h : TablesCanonical s) :
    TablesCanonical (laneMode lane m s).state :=
  refused_canonical h (setMode_canonical h)

theorem lanePulse_canonical (lane : Byte) (h : TablesCanonical s) : TablesCanonical (lanePulse lane s).state :=
  refused_canonical h (refused_canonical h (refused_canonical h (refused_canonical h (refused_canonical h
    (offerEntry_canonical (releaseLane_canonical h))))))

theorem countersLatch_canonical (selector : Byte) (h : TablesCanonical s) :
    TablesCanonical (countersLatch selector s).state := by
  unfold countersLatch
  split
  · exact h
  · exact foldl_canonical (f := latchLane) (fun _ _ => setLane_canonical) _ h

theorem countersRead_canonical (selector : Byte) (h : TablesCanonical s) :
    TablesCanonical (countersRead selector s).state := by
  unfold countersRead
  split <;> exact h

theorem countersReset_canonical (selector : Byte) (h : TablesCanonical s) :
    TablesCanonical (countersReset selector s).state := by
  unfold countersReset
  split
  · exact h
  · exact foldl_canonical (f := resetLane) (fun _ _ => setLane_canonical) _ h

theorem setHolding_canonical {holding : Table Holding} (hw : Table.wf Holding.never holding = true)
    (h : TablesCanonical s) : TablesCanonical { s with holding := holding } :=
  { h with holding := hw }

/-- One holding entry is set; ALL lists the entries of every index, none of them NEVER (R122). -/
theorem totalsLatch_canonical (selector : Half) (h : TablesCanonical s) :
    TablesCanonical (totalsLatch selector s).state := by
  have hall : Table.wf Holding.never ((List.range Config.workerCount).map fun i => (i, s.latched i)) = true :=
    wf_map List.pairwise_lt_range (latched_ne_never s)
  unfold totalsLatch
  dsimp only
  split
  · exact setHolding_canonical (wf_set h.holding _ _) h
  split
  · exact setHolding_canonical hall h
  · exact h

theorem periodClose_canonical (crews : Half) (h : TablesCanonical s) : TablesCanonical (periodClose crews s).state := by
  refine refused_canonical h ?_
  split
  · exact { h with }
  · exact { h with }
  · exact h
  · exact h

theorem closeCancel_canonical (h : TablesCanonical s) : TablesCanonical (closeCancel s).state := by
  unfold closeCancel
  split
  · exact { h with }
  · exact h

theorem journalTrim_canonical (count : Half) (h : TablesCanonical s) : TablesCanonical (journalTrim count s).state :=
  refused_canonical h (updateJournalConditions_canonical { h with })

theorem journalStatus_canonical (clear : Byte) (h : TablesCanonical s) :
    TablesCanonical (journalStatus clear s).state := by
  unfold journalStatus
  split
  · exact h
  · dsimp only
    split
    · exact { h with }
    · exact h

theorem bellRing_canonical (outputs pattern priority : Byte) (h : TablesCanonical s) :
    TablesCanonical (bellRing outputs pattern priority s).state :=
  refused_canonical h (ringOutputs_canonical h)

theorem bellSilence_canonical (outputs : Byte) (h : TablesCanonical s) :
    TablesCanonical (bellSilence outputs s).state :=
  foldl_canonical (fun _ _ => setArbiter_canonical) _ h

theorem evacuationClear_canonical (h : TablesCanonical s) : TablesCanonical (evacuationClear s).state :=
  refused_canonical h (refused_canonical h (accepted_canonical (clearEvacuation_canonical h)))

/-- Every block answers with canonical tables. -/
theorem owningBlock_canonical {i : Instr} {act : State → Answer} (e : owningBlock i = some act)
    (h : TablesCanonical s) : TablesCanonical (act s).state := by
  cases i <;> cases e
  case describe => exact h
  case statusRead => exact statusRead_canonical _ h
  case alertMask => exact alertMaskSet_canonical _ _ h
  case tableWrite => exact tableWrite_canonical _ _ _ _ h
  case tableRead => exact tableRead_canonical _ _ _ h
  case restart => exact { h with }
  case timeSet => exact timeSet_canonical _ _ h
  case timeSlew => exact timeSlew_canonical _ h
  case timeRead => exact h
  case workerSet => exact workerSet_canonical _ _ _ _ _ h
  case workerFree => exact workerFree_canonical _ h
  case presenceSet => exact presenceSet_canonical _ _ h
  case workerRead => exact refused_canonical h h
  case badgeAdd => exact badgeAdd_canonical _ _ h
  case badgeRemove => exact badgeRemove_canonical _ h
  case badgeFind => exact badgeFind_canonical _ h
  case badgeRead => exact refused_canonical h h
  case laneCommandNormal => exact laneMode_canonical _ _ h
  case laneCommandLocked => exact laneMode_canonical _ _ h
  case laneCommandUnlocked => exact laneMode_canonical _ _ h
  case laneCommandPulse => exact lanePulse_canonical _ h
  case laneCountersLatch => exact countersLatch_canonical _ h
  case laneCountersRead => exact countersRead_canonical _ h
  case laneCountersReset => exact countersReset_canonical _ h
  case totalsLatch => exact totalsLatch_canonical _ h
  case totalsRead => exact refused_canonical h h
  case closedRead => exact refused_canonical h h
  case periodClose => exact periodClose_canonical _ h
  case closeCancel => exact closeCancel_canonical h
  case closeStatus => exact h
  case journalRead => exact refused_canonical h h
  case journalTrim => exact journalTrim_canonical _ h
  case journalStatus => exact journalStatus_canonical _ h
  case bellRing => exact bellRing_canonical _ _ _ h
  case bellSilence => exact bellSilence_canonical _ h
  case bellStatus => exact h
  case evacuate => exact takeCause_canonical h
  case evacuationClear => exact evacuationClear_canonical h
  case musterRead => exact refused_canonical h h
  case musterList => exact refused_canonical h h
  case unknownRequest => exact h

end Blocks

/-- A property of states that does not speak of the Chain Port is kept by a request's command when its block keeps it. -/
theorem takeRequest_keeps {P : State → Prop} (hlink : ∀ u link, P u → P { u with link := link }) (i : Instr)
    {act : State → Answer} (ha : ∀ u, P u → P (act u).state) {s : State} (h : P s) : P (takeRequest i act s) := by
  rcases takeRequest_cases i act s with e | ⟨r, s1, -, -, h1, e⟩
  · rw [e]; exact h
  · have hs1 : P s1 := by
      rcases h1 with rfl | rfl
      · exact h
      · unfold offerRequest
        split <;> exact hlink _ _ h
    rcases e with e | ⟨-, -, e⟩
    · rw [e]; exact hs1
    · have hact := ha _ (hlink s1 { s1.link with requests := s1.link.requests.tail } hs1)
      rw [e]
      unfold finishRequest
      split
      · exact hact
      · exact hlink _ _ hact

/-! ## Events -/

section Events

variable {s : State}

theorem millisecond_canonical (h : TablesCanonical s) : TablesCanonical (millisecond s) := by
  unfold millisecond
  dsimp only
  split
  · split
    · exact { h with lanes := wf_update h.lanes _ }
    · exact { h with }
  · exact h

theorem tick_canonical (fire chain : Bool) (h : TablesCanonical s) : TablesCanonical (tick fire chain s) := by
  unfold tick
  split
  · exact { h with
      lanes := wf_update h.lanes fun l => (l.afterMs (100 - s.clock.msDivider)).afterTick
      arbiters := wf_update h.arbiters Arbiter.afterTick }
  split
  · exact { h with }
  · exact h

theorem secondTick_canonical (h : TablesCanonical s) : TablesCanonical (secondTick s) := by
  unfold secondTick
  dsimp only
  split
  · split
    · exact takeExpiries_canonical (fireBells_canonical { h with })
    · exact { h with }
  · exact h

theorem segmentEnd_canonical (o : Nat) (h : TablesCanonical s) : TablesCanonical (segmentEnd o s) := by
  unfold segmentEnd
  dsimp only
  split
  · split
    · split
      · exact setArbiter_canonical h
      · exact h
    · exact h
  · exact h

theorem pollExpiry_canonical (n : Nat) (h : TablesCanonical s) : TablesCanonical (pollExpiry n s) := by
  unfold pollExpiry
  dsimp only
  split
  · exact setLane_canonical h
  · exact h

theorem headEmpty_canonical (n : Nat) (h : TablesCanonical s) : TablesCanonical (headEmpty n s) := by
  unfold headEmpty
  split
  · exact goodReply_canonical (endExchange_canonical h)
  · exact h

theorem replyMissed_canonical (n : Nat) (h : TablesCanonical s) : TablesCanonical (replyMissed n s) := by
  unfold replyMissed
  dsimp only
  split
  · exact missedReply_canonical (endExchange_canonical h)
  · exact h

theorem replyBad_canonical (n : Nat) (h : TablesCanonical s) : TablesCanonical (replyBad n s) := by
  unfold replyBad
  dsimp only
  split
  · exact missedReply_canonical (setLane_canonical (endExchange_canonical h))
  · exact h

theorem releaseExpiry_canonical (n : Nat) (h : TablesCanonical s) : TablesCanonical (releaseExpiry n s) := by
  unfold releaseExpiry
  dsimp only
  split
  · exact endRelease_canonical h
  · exact h

theorem heldExpiry_canonical (n : Nat) (h : TablesCanonical s) : TablesCanonical (heldExpiry n s) := by
  unfold heldExpiry
  dsimp only
  split
  · split
    · exact offerEntry_canonical (setConditions_canonical (setLane_canonical h))
    · exact setLane_canonical h
  · exact h

theorem gatherExpiry_canonical (h : TablesCanonical s) : TablesCanonical (gatherExpiry s) := by
  unfold gatherExpiry
  split
  · split
    · exact offerEntry_canonical { h with }
    · exact flagCloseDone_canonical { h with }
  · exact h

theorem walkStep_canonical (h : TablesCanonical s) : TablesCanonical (walkStep s) := by
  unfold walkStep
  dsimp only
  split
  · have hreach := pays_canonical (reachRecord_pays s.close.walkIndex (s.worker s.close.walkIndex).presence s) h
    split
    · exact flagCloseDone_canonical (offerEntry_canonical { hreach with })
    · exact { hreach with }
  · exact h

theorem fireActive_canonical (h : TablesCanonical s) : TablesCanonical (fireActive s) := by
  unfold fireActive
  split
  · exact takeCause_canonical { h with }
  · exact h

theorem fireInactive_canonical (h : TablesCanonical s) : TablesCanonical (fireInactive s) := by
  unfold fireInactive
  split
  · exact { h with }
  · exact h

theorem chainActive_canonical (h : TablesCanonical s) : TablesCanonical (chainActive s) := by
  unfold chainActive
  split
  · exact takeChain_canonical { h with }
  · exact h

theorem chainInactive_canonical (h : TablesCanonical s) : TablesCanonical (chainInactive s) := by
  unfold chainInactive
  split
  · exact { h with }
  · exact h

/-! ### The two ports -/

theorem downwardReceived_canonical (l : List Byte) (h : TablesCanonical s) :
    TablesCanonical (downwardReceived l s) := by
  obtain ⟨link, e⟩ := downwardReceived_form (s := s) l
  rw [e]
  exact { h with }

theorem upwardReceived_canonical (l : List Byte) (h : TablesCanonical s) : TablesCanonical (upwardReceived l s) := by
  obtain ⟨link, e⟩ := upwardReceived_form (s := s) l
  rw [e]
  exact { h with }

theorem downwardSend_canonical (h : TablesCanonical s) : TablesCanonical (downwardSend s) := by
  unfold downwardSend
  split
  · split
    · exact { h with }
    · exact h
  · exact h

theorem transmitFrom_canonical (src : UpSource) (h : TablesCanonical s) : TablesCanonical (transmitFrom src s) := by
  unfold transmitFrom
  split <;> split
  · exact { h with }
  · exact h
  · exact { h with }
  · exact h

theorem transmit_canonical (h : TablesCanonical s) : TablesCanonical (transmit s) := by
  unfold transmit
  split
  · split
    · exact transmitFrom_canonical _ h
    · exact h
  · exact h

/-! ### Power and starts -/

theorem beginStart_canonical {k : StartKind} (h : TablesCanonical s) : TablesCanonical (beginStart k s) := { h with }

theorem restartReplySent_canonical (h : TablesCanonical s) : TablesCanonical (restartReplySent s) := by
  unfold restartReplySent
  split
  · exact beginStart_canonical h
  · exact h

theorem powerUp_canonical (h : TablesCanonical s) : TablesCanonical (powerUp s) := by
  unfold powerUp
  split
  · exact h
  split
  · exact beginStart_canonical { h with }
  · exact { h with }

theorem mainPowerLost_canonical (h : TablesCanonical s) : TablesCanonical (mainPowerLost s) := by
  unfold mainPowerLost
  split
  · exact beginStart_canonical { h with }
  · exact h

theorem retainedLost_canonical (h : TablesCanonical s) : TablesCanonical (retainedLost s) := by
  unfold retainedLost
  split
  · exact h
  · exact { h with }

/-- The lost retained domain comes back with every table empty (R205). -/
theorem coldDomain_canonical : TablesCanonical (coldDomain s) := by
  constructor <;> exact wf_nil

/-- The lanes of a start are listed anew, those enabled as IDLE; arbiters and holding bank are empty (R81, R121, R170). -/
theorem startValues_canonical (k : StartKind) (strap : BitVec 5) (h : TablesCanonical s) :
    TablesCanonical (Machine.startValues k strap s) :=
  { h with
    workers := wf_update h.workers _
    lanes := wf_map (List.pairwise_lt_range.filter _) fun _ => laneStarted_ne_cold _
    arbiters := wf_nil
    holding := wf_nil }

theorem restoreEvacuation_canonical (fire chain : Bool) (h : TablesCanonical s) :
    TablesCanonical (restoreEvacuation fire chain s) := by
  unfold restoreEvacuation
  extract_lets s1 s2 s3
  have h1 : TablesCanonical s1 := { h with }
  have h2 : TablesCanonical s2 := by
    unfold s2; split
    · exact flagEvacuating_canonical (soundTone_canonical h1)
    · exact h1
  have h3 : TablesCanonical s3 := by
    unfold s3; split
    · exact takeCause_canonical h2
    · exact h2
  exact takeChain_canonical h3

theorem completeStart_canonical (k : StartKind) (fire chain : Bool) (strap : BitVec 5) (h : TablesCanonical s) :
    TablesCanonical (completeStart k fire chain strap s) :=
  flagJournal_canonical (restoreEvacuation_canonical fire chain (takeExpiries_canonical
    { startValues_canonical k strap h with }))

theorem startComplete_canonical (fire chain : Bool) (strap : BitVec 5) (h : TablesCanonical s) :
    TablesCanonical (startComplete fire chain strap s) := by
  unfold startComplete
  split
  · exact h
  split
  · refine completeStart_canonical _ _ _ _ ?_
    split
    · exact coldDomain_canonical
    · exact h
  · exact h

/-- Every event command keeps the tables canonical. -/
theorem eventEffect_canonical (i : Instr) (h : TablesCanonical s) : TablesCanonical (eventEffect i s) := by
  cases i
  case downwardFrameReceived => exact downwardReceived_canonical _ h
  case upwardFrameReceived => exact upwardReceived_canonical _ h
  case downwardForwardSend => exact downwardSend_canonical h
  case upwardTransmit => exact transmit_canonical h
  case restartReplySent => exact restartReplySent_canonical h
  case tick100ms => exact tick_canonical _ _ h
  case secondTick => exact secondTick_canonical h
  case segmentEnd => exact segmentEnd_canonical _ h
  case pollTimerExpiry => exact pollExpiry_canonical _ h
  case headEmpty => exact headEmpty_canonical _ h
  case headPunch => exact headEvent_canonical (fun _ => punchTaken_canonical) h
  case headDoorOpen => exact headEvent_canonical (fun _ => doorOpened_canonical) h
  case headDoorClosed => exact headEvent_canonical (fun _ => doorClosed_canonical) h
  case headTamperOn => exact headEvent_canonical (fun _ => tamperTaken_canonical) h
  case headTamperOff => exact headEvent_canonical (fun _ => tamperTaken_canonical) h
  case laneReplyBad => exact replyBad_canonical _ h
  case laneReplyMissed => exact replyMissed_canonical _ h
  case releaseTimerExpiry => exact releaseExpiry_canonical _ h
  case heldTimerExpiry => exact heldExpiry_canonical _ h
  case gatherTimerExpiry => exact gatherExpiry_canonical h
  case walkStep => exact walkStep_canonical h
  case fireActive => exact fireActive_canonical h
  case fireInactive => exact fireInactive_canonical h
  case chainLevelActive => exact chainActive_canonical h
  case chainLevelInactive => exact chainInactive_canonical h
  case powerUp => exact powerUp_canonical h
  case mainPowerLost => exact mainPowerLost_canonical h
  case resetInputActive => exact beginStart_canonical { h with }
  case startComplete => exact startComplete_canonical _ _ _ h
  case retainedDomainLost => exact retainedLost_canonical h
  all_goals exact h

end Events

/-- Every command keeps the tables canonical. -/
theorem effect_canonical (i : Instr) {s : State} (h : TablesCanonical s) : TablesCanonical (effect i s) := by
  unfold effect
  split
  · next act e => exact takeRequest_keeps (fun _ _ hu => { hu with }) i (fun _ => owningBlock_canonical e) h
  · exact eventEffect_canonical i h

end Sys2Proof.Proofs
end

section
/-! PROOF. Every step keeps the tables in their canonical form. -/

namespace Sys2Proof.Proofs

open Machine Laws

/-- Settles O60: every command and every idle millisecond keeps the tables canonical. -/
theorem stepsKeepTables : Obligations.StepsKeepTables := by
  unfold Obligations.StepsKeepTables
  intro s t
  exact step_keeps (P := TablesCanonical) (fun _ _ h => { h with }) (fun _ => millisecond_canonical)
    (fun i _ => effect_canonical i)

end Sys2Proof.Proofs
end

section
/-! SUPPORT. Table records and their bytes: what is legal by numbers (R16, R18, R20, R157), which bytes a table refuses
(R199), and that the bytes of a legal record read back as the record (R202). -/

namespace Sys2Proof.Proofs

open Machine Laws

/-! ## Legal records -/

theorem shift_legal_iff (r : Shift) : r.legal = true ↔
    r.start ≤ 1439 ∧ r.stop ≤ 1439 ∧ r.entryOpen ≤ 240 ∧ r.earlyGrace ≤ 60 ∧ r.lateGrace ≤ 60 ∧ r.exitGrace ≤ 60
      ∧ r.quantum ∈ [1, 5, 6, 10, 12, 15, 30] ∧ r.break_ ≤ 120 ∧ r.threshold ≤ 1440 ∧ r.outWindow ≤ 720 := by
  simp [Shift.legal, and_assoc]

/-- A rota is legal when every day is a shift index or OFF; the two daily limits are bounded by the larger (R18). -/
theorem crew_legal_iff (r : Crew) : r.legal = true ↔
    1 ≤ r.length ∧ r.length ≤ 28 ∧ (∀ i, some i ∈ r.rota → i ≤ 31) ∧ r.dr ≤ r.dl ∧ r.dl ≤ 1440 ∧ r.wr ≤ 10080 := by
  simp only [Crew.legal, Bool.and_eq_true, List.all_eq_true, decide_eq_true_eq]
  constructor
  · rintro ⟨⟨⟨⟨⟨⟨hn, hn'⟩, hrota⟩, -⟩, hdr⟩, hdl⟩, hwr⟩
    exact ⟨hn, hn', fun i hi => by simpa using hrota _ hi, hdr, hdl, hwr⟩
  · rintro ⟨hn, hn', hrota, hdr, hdl, hwr⟩
    refine ⟨⟨⟨⟨⟨⟨hn, hn'⟩, fun d hd => ?_⟩, hdr.trans hdl⟩, hdr⟩, hdl⟩, hwr⟩
    cases d with
    | none => rfl
    | some i => simpa using hrota i hd

theorem rate_legal_iff (r : Rate) : r.legal = true ↔ 100 ≤ r.m1 ∧ r.m1 ≤ 400 ∧ 100 ≤ r.m2 ∧ r.m2 ≤ 400 := by
  simp [Rate.legal, and_assoc]

theorem bellEntry_legal_iff (r : BellEntry) : r.legal = true ↔
    r.minute ≤ 1439 ∧ r.shift ≤ 31 ∧ -120 ≤ r.offset ∧ r.offset ≤ 120 ∧ r.pattern ≤ 15 ∧ r.priority ≤ 3 := by
  simp [BellEntry.legal, and_assoc]

theorem part_legal_iff (r : PartRecord) : r.legal = true ↔
    64 ≤ r.highMark ∧ r.highMark ≤ 2047 ∧ r.nightStart ≤ 1439 ∧ r.nightEnd ≤ 1439 ∧ r.weekStart ≤ 6
      ∧ r.evacPattern ≤ 15 := by
  simp [PartRecord.legal, and_assoc]

/-! ## Bytes that a table refuses (R199) -/

theorem yesNo_le {b : Byte} {v : Bool} (h : yesNo b = some v) : b.toNat ≤ 1 := by
  by_contra hb
  rw [yesNo_none (by omega)] at h
  cases h

theorem laneDirectionOf_le {b : Byte} {v : LaneDirection} (h : laneDirectionOf b = some v) : b.toNat ≤ 2 := by
  unfold laneDirectionOf at h
  split at h
  case h_4 => cases h
  all_goals omega

theorem passbackOf_le {b : Byte} {v : Passback} (h : passbackOf b = some v) : b.toNat ≤ 1 := by
  unfold passbackOf at h
  split at h
  case h_3 => cases h
  all_goals omega

section Refused

variable {r : List Byte}

/-- A rota byte other than 255 is a day with that shift. -/
theorem rotaDay_mem {days : List Byte} {j : Nat} (hj : j < 28) (hlen : 28 ≤ days.length)
    (hoff : (days.getD j 0).toNat ≠ 255) : some (days.getD j 0).toNat ∈ (days.take 28).map rotaDay := by
  have hne : days.getD j 0 ≠ 255#8 := fun e => hoff (by rw [e]; rfl)
  refine List.mem_map.2 ⟨days.getD j 0, ?_, if_neg hne⟩
  rw [List.getD_eq_getElem _ _ (by omega)]
  exact List.mem_take_iff_getElem.2 ⟨j, by omega, rfl⟩

theorem readShift_outside (h : TableId.outside .shift r) : readShift r = none := by
  unfold readShift
  split
  · refine if_neg fun hl => ?_
    rw [shift_legal_iff] at hl
    simp only [TableId.outside, List.getD_cons_zero, List.getD_cons_succ] at h
    grind
  · rfl

theorem readRate_outside (h : TableId.outside .rate r) : readRate r = none := by
  unfold readRate
  split
  · refine if_neg fun hl => ?_
    rw [rate_legal_iff] at hl
    simp only [TableId.outside, List.getD_cons_zero, List.getD_cons_succ] at h
    grind
  · rfl

theorem readBellEntry_outside (h : TableId.outside .schedule r) : readBellEntry r = none := by
  unfold readBellEntry
  split
  · simp only [TableId.outside, List.getD_cons_zero, List.getD_cons_succ] at h
    split
    · next hu hk ha =>
      refine if_neg fun hl => ?_
      rw [bellEntry_legal_iff] at hl
      have := yesNo_le hu
      have := yesNo_le hk
      have := yesNo_le ha
      grind
    · rfl
  · rfl

theorem readLane_outside (h : TableId.outside .lane r) : readLane r = none := by
  unfold readLane
  split
  · simp only [TableId.outside, List.getD_cons_zero, List.getD_cons_succ] at h
    split
    · next he hd hf =>
      have := yesNo_le he
      have := laneDirectionOf_le hd
      have := yesNo_le hf
      omega
    · rfl
  · rfl

theorem readPart_outside (h : TableId.outside .part r) : readPart r = none := by
  unfold readPart
  split
  · simp only [TableId.outside, List.getD_cons_zero, List.getD_cons_succ] at h
    split
    · next hp hl ha he =>
      refine if_neg fun hlegal => ?_
      rw [part_legal_iff] at hlegal
      have := yesNo_le hp
      have := yesNo_le hl
      have := yesNo_le ha
      have := yesNo_le he
      grind
    · rfl
  · rfl

theorem readCrew_outside (h : TableId.outside .crew r) : readCrew r = none := by
  unfold readCrew
  split
  · next n a1 a2 rest =>
    split
    · next d1 d2 l1 l2 w1 w2 p hrest =>
      have htail : ∀ k, rest.getD (28 + k) 0 = [d1, d2, l1, l2, w1, w2, p].getD k 0 := fun k => by
        simp only [← hrest, List.getD_eq_getElem?_getD, List.getElem?_drop]
      have hlen : rest.length = 35 := by
        have := congrArg List.length hrest
        simp only [List.length_drop, List.length_cons, List.length_nil] at this
        omega
      split
      · next mode hmode =>
        refine if_neg fun hlegal => ?_
        obtain ⟨hn, hn', hrota, hdr, hdl, hwr⟩ := (crew_legal_iff _).1 hlegal
        have := passbackOf_le hmode
        simp only [TableId.outside, List.getD_cons_zero, List.getD_cons_succ, htail 0, htail 1, htail 2, htail 3,
          htail 4, htail 5, htail 6] at h
        rcases h with h | h | ⟨k, hk, hk', hbig, hoff⟩ | h
        · exact absurd hn (not_le.2 h)
        · exact absurd hn' (not_le.2 h)
        · obtain ⟨j, rfl⟩ : ∃ j, k = j + 3 := ⟨k - 3, by omega⟩
          simp only [List.getD_cons_succ] at hbig hoff
          exact absurd (hrota _ (rotaDay_mem (by omega) (by omega) hoff)) (not_le.2 hbig)
        · dsimp only at hdr hdl hwr
          omega
      · rfl
    · rfl
  · rfl

theorem readPattern_outside (hlen : r.length = 9) (h : TableId.outside .pattern r) : readPattern r = none := by
  obtain ⟨n, hn⟩ : ∃ n, r.drop 8 = [n] := List.length_eq_one_iff.1 (by simp [hlen])
  have hlast : r.getD 8 0 = n := by
    rw [List.getD_eq_getElem?_getD, ← List.head?_drop, hn]
    rfl
  simp only [TableId.outside, hlast] at h
  unfold readPattern
  rw [hn]
  exact if_neg (by omega)

end Refused

/-! ## The bytes of legal records -/

theorem byte_toNat {n : Nat} (h : n < 256) : (BitVec.ofNat 8 n).toNat = n := by
  rw [BitVec.toNat_ofNat]
  exact Nat.mod_eq_of_lt h

theorem yesNo_flag (b : Bool) : yesNo (BitVec.ofNat 8 (if b then 1 else 0)) = some b := by cases b <;> rfl

theorem shift_bytes_length (r : Shift) : r.bytes.length = 14 := rfl

theorem rate_bytes_length (r : Rate) : r.bytes.length = 8 := rfl

theorem bellEntry_bytes_length (r : BellEntry) : r.bytes.length = 11 := rfl

theorem crew_bytes_length {r : Crew} (h : r.rota.length = 28) : r.bytes.length = 38 := by
  simp [Crew.bytes, be8, be16, h]

theorem pattern_bytes_length {r : Pattern} (h : r.segments.length = 8) : r.bytes.length = 9 := by
  simp [Pattern.bytes, be8, h]

theorem readShift_bytes {r : Shift} (h : r.legal = true) : readShift r.bytes = some r := by
  obtain ⟨h1, h2, h3, h4, h5, h6, hq, h8, h9, h10⟩ := (shift_legal_iff r).1 h
  have h7 : r.quantum ≤ 30 := by
    simp only [List.mem_cons, List.not_mem_nil, or_false] at hq
    omega
  simp (disch := omega) only [Shift.bytes, be8, be16, List.cons_append, List.nil_append, readShift, nat16_be16,
    byte_toNat]
  exact if_pos h

theorem readRate_bytes {r : Rate} (h : r.legal = true) (hb : r.base ≤ 65535) (hp : r.premium ≤ 65535) :
    readRate r.bytes = some r := by
  obtain ⟨h1, h2, h3, h4⟩ := (rate_legal_iff r).1 h
  simp (disch := omega) only [Rate.bytes, be16, List.cons_append, List.nil_append, readRate, nat16_be16]
  exact if_pos h

/-- A mask of the low bits leaves a byte that has no other (R202). -/
theorem byte_mask {b : Byte} {k : Nat} (hk : k ≤ 8) (h : b.toNat < 2 ^ k) : b &&& BitVec.ofNat 8 (2 ^ k - 1) = b := by
  have hlt : 2 ^ k - 1 < 2 ^ 8 := Nat.sub_one_lt_of_le (Nat.two_pow_pos k) (Nat.pow_le_pow_right (by decide) hk)
  apply BitVec.eq_of_toNat_eq
  rw [BitVec.toNat_and, BitVec.toNat_ofNat, Nat.mod_eq_of_lt hlt, Nat.and_two_pow_sub_one_eq_mod, Nat.mod_eq_of_lt h]

theorem readBellEntry_bytes {r : BellEntry} (h : r.legal = true) (hw : r.weekdays.toNat < 128)
    (ho : r.outputs.toNat < 16) : readBellEntry r.bytes = some r := by
  obtain ⟨hminute, hshift, hlow, hhigh, hpattern, hpriority⟩ := (bellEntry_legal_iff r).1 h
  have hweek : r.weekdays &&& 0x7F#8 = r.weekdays := byte_mask (k := 7) (by decide) hw
  have hout : r.outputs &&& 0x0F#8 = r.outputs := byte_mask (k := 4) (by decide) ho
  have hoff : (BitVec.ofNat 8 (BitVec.ofInt 8 r.offset).toNat).toInt = r.offset := by
    rw [BitVec.ofNat_toNat, BitVec.setWidth_eq, BitVec.toInt_ofInt]
    exact Int.bmod_eq_of_le (by omega) (by omega)
  simp (disch := omega) only [BellEntry.bytes, flagByte, signed8, be8, be16, List.cons_append, List.nil_append,
    readBellEntry, nat16_be16, byte_toNat, yesNo_flag, hweek, hout, hoff]
  obtain ⟨use, kind, minute, weekdays, shift, anchor, offset, outputs, pattern, priority⟩ := r
  cases kind <;> cases anchor <;> exact if_pos h

/-- The byte of a rota day: a shift index, or 255 for OFF (R202). -/
def dayByte : Option Nat → Byte
  | some i => BitVec.ofNat 8 i
  | none => 255#8

/-- The byte of a passback mode. -/
def passbackByte : Passback → Byte
  | .hard => 0#8
  | .soft => 1#8

theorem crew_bytes_eq (r : Crew) : r.bytes =
    be8 r.length ++ be16 r.anchor ++ r.rota.map dayByte ++ be16 r.dr ++ be16 r.dl ++ be16 r.wr
      ++ [passbackByte r.passback] := by
  cases h : r.passback <;> simp only [Crew.bytes, h] <;> rfl

theorem rotaDay_dayByte {d : Option Nat} (h : ∀ i, d = some i → i ≤ 31) : rotaDay (dayByte d) = d := by
  cases d with
  | none => rfl
  | some i =>
    have hbyte : (BitVec.ofNat 8 i).toNat = i := byte_toNat (by have := h i rfl; omega)
    have hne : BitVec.ofNat 8 i ≠ 255#8 := fun e => by
      rw [e] at hbyte
      exact absurd (h i rfl) (by rw [← hbyte]; decide)
    exact (if_neg hne).trans (congrArg some hbyte)

theorem passbackOf_byte (p : Passback) : passbackOf (passbackByte p) = some p := by cases p <;> rfl

theorem readCrew_bytes {r : Crew} (h : r.legal = true) (hlen : r.rota.length = 28) (hanchor : r.anchor ≤ 65535) :
    readCrew r.bytes = some r := by
  obtain ⟨hn, hn', hrota, hdr, hdl, hwr⟩ := (crew_legal_iff r).1 h
  have hback : (r.rota.map dayByte).map rotaDay = r.rota := by
    rw [List.map_map]
    exact (List.map_congr_left fun d hd => rotaDay_dayByte fun i hi => hrota i (hi ▸ hd)).trans (List.map_id _)
  simp only [crew_bytes_eq, be8, be16, List.cons_append, List.nil_append, List.append_assoc, readCrew]
  rw [List.drop_left' (by simpa using hlen), List.take_left' (by simpa using hlen), hback]
  simp (disch := omega) only [passbackOf_byte, nat16_be16, byte_toNat]
  exact if_pos h

theorem segmentOf_byte : ∀ (level : Bool) (d : Fin 64),
    segmentOf (BitVec.ofNat 8 (d + if level then 128 else 0)) = ⟨level, d⟩ := by decide

theorem readPattern_bytes {r : Pattern} (hlen : r.segments.length = 8) (hd : ∀ g ∈ r.segments, g.duration ≤ 63)
    (hr : 1 ≤ r.repeats) (hr' : r.repeats ≤ 15) : readPattern r.bytes = some r := by
  have hback : (r.segments.map fun g => BitVec.ofNat 8 (g.duration + if g.level then 128 else 0)).map segmentOf =
      r.segments := by
    rw [List.map_map]
    refine (List.map_congr_left fun g hg => ?_).trans (List.map_id _)
    exact segmentOf_byte g.level ⟨g.duration, Nat.lt_succ_of_le (hd g hg)⟩
  unfold readPattern Pattern.bytes
  rw [List.drop_left' (by simpa using hlen), List.take_left' (by simpa using hlen), hback]
  simp only [be8, byte_toNat (show r.repeats < 256 by omega)]
  exact if_pos ⟨hr, hr'⟩

end Sys2Proof.Proofs
end

section
/-! PROOF. TABLE WRITE and TABLE READ (R198 to R202). -/

namespace Sys2Proof.Proofs

open Machine Laws

/-! ## The checks of a run (R199, R200) -/

section Checks

variable {t : TableId} {table first count : Byte} {records : List Byte} (s : State)

theorem badRun_iff (t : TableId) (first n : Nat) :
    t.badRun first n = true ↔ t.records < first + n ∨ t.perRequest < n := by
  simp [TableId.badRun]

theorem badRun_false {first n : Nat} (hrec : first + n ≤ t.records) (hper : n ≤ t.perRequest) :
    t.badRun first n = false := by
  simp [TableId.badRun, hrec, hper]

theorem tableWrite_unknown (h : tableOf table = none) :
    tableWrite table first count records s = answer .badTable s := by
  simp only [tableWrite, h]

theorem tableWrite_badRun (h : tableOf table = some t)
    (hbad : t.records < first.toNat + (count.toNat + 1) ∨ t.perRequest < count.toNat + 1) :
    tableWrite table first count records s = answer .badIndex s := by
  simp only [tableWrite, h, (badRun_iff _ _ _).2 hbad, if_true]

theorem tableWrite_badLength (h : tableOf table = some t) (hrec : first.toNat + (count.toNat + 1) ≤ t.records)
    (hper : count.toNat + 1 ≤ t.perRequest) (hlen : records.length ≠ (count.toNat + 1) * t.size) :
    tableWrite table first count records s = answer .badValue s := by
  simp only [tableWrite, h, badRun_false hrec hper, Bool.false_eq_true, if_false, if_pos hlen]

theorem tableWrite_checked (h : tableOf table = some t) (hrec : first.toNat + (count.toNat + 1) ≤ t.records)
    (hper : count.toNat + 1 ≤ t.perRequest) (hlen : records.length = (count.toNat + 1) * t.size) :
    tableWrite table first count records s = writeRun t first.toNat (count.toNat + 1) records s := by
  simp only [tableWrite, h, badRun_false hrec hper, Bool.false_eq_true, if_false, ne_eq, hlen, not_true_eq_false]

theorem tableRead_unknown (h : tableOf table = none) : tableRead table first count s = answer .badTable s := by
  simp only [tableRead, h]

theorem tableRead_badRun (h : tableOf table = some t)
    (hbad : t.records < first.toNat + (count.toNat + 1) ∨ t.perRequest < count.toNat + 1) :
    tableRead table first count s = answer .badIndex s := by
  simp only [tableRead, h, (badRun_iff _ _ _).2 hbad, if_true]

theorem tableRead_checked (h : tableOf table = some t) (hrec : first.toNat + (count.toNat + 1) ≤ t.records)
    (hper : count.toNat + 1 ≤ t.perRequest) :
    tableRead table first count s =
      returns ([table, first, count] ++ runBytes (recordBytes s t) first.toNat (count.toNat + 1)) s := by
  simp only [tableRead, h, badRun_false hrec hper, Bool.false_eq_true, if_false]

/-- A run with a record outside its table's sets is refused (R199); a run of the PART table is its one record. -/
theorem writeRun_outside {run : List (List Byte)} (hsize : ∀ r ∈ run, r.length = t.size)
    (hper : run.length ≤ t.perRequest) (hout : ∃ r ∈ run, t.outside r) (first : Nat) :
    writeRun t first run.length run.flatten s = answer .badValue s := by
  obtain ⟨r, hr, ho⟩ := hout
  cases t <;> unfold writeRun
  case shift => simp only [readRun_none (size := 14) hsize hr (readShift_outside ho)]
  case crew => simp only [readRun_none (size := 38) hsize hr (readCrew_outside ho)]
  case rate => simp only [readRun_none (size := 8) hsize hr (readRate_outside ho)]
  case schedule => simp only [readRun_none (size := 11) hsize hr (readBellEntry_outside ho)]
  case pattern => simp only [readRun_none (size := 9) hsize hr (readPattern_outside (hsize r hr) ho)]
  case lane => simp only [readRun_none (size := 9) hsize hr (readLane_outside ho)]
  case part =>
    obtain ⟨r', rfl⟩ : ∃ r', run = [r'] :=
      List.length_eq_one_iff.1 (le_antisymm hper (List.length_pos_of_mem hr))
    obtain rfl := List.mem_singleton.1 hr
    simp only [List.flatten_cons, List.flatten_nil, List.append_nil, readPart_outside ho]

end Checks

/-- The bytes of a run of records of one size. -/
theorem flatten_length {run : List (List Byte)} {size : Nat} (h : ∀ r ∈ run, r.length = size) :
    run.flatten.length = run.length * size := by
  rw [List.length_flatten, List.sum_eq_card_nsmul _ size (by simpa using h), List.length_map, smul_eq_mul]

/-- A ready request that carries an address is answered as its block answers. -/
theorem request_ready {i : Instr} {kind tag : Byte} {payload data : List Byte} {act : State → Answer} {s u : State}
    {c : ReplyCode} (h : Ready i s) (he : encodeRequest i = some ⟨false, kind, tag, payload⟩)
    (hact : act s.taken = ⟨u, c, data⟩) : takeRequest i act s = u.reply kind tag c data := by
  rw [takeRequest_ready act h he, hact]
  rfl

/-- TABLE WRITE is answered as its block answers. -/
theorem exec_tableWrite {tag table first count : Byte} {records : List Byte} {s u : State} {c : ReplyCode}
    (h : Ready (.tableWrite tag table first count records) s)
    (hact : tableWrite table first count records s.taken = answer c u) :
    exec (.tableWrite tag table first count records) s = .next (u.reply 4#8 tag c []) :=
  congrArg Host.Outcome.next (request_ready h rfl hact)

/-- TABLE READ is answered as its block answers. -/
theorem exec_tableRead {tag table first count : Byte} {data : List Byte} {s u : State} {c : ReplyCode}
    (h : Ready (.tableRead tag table first count) s) (hact : tableRead table first count s.taken = ⟨u, c, data⟩) :
    exec (.tableRead tag table first count) s = .next (u.reply 5#8 tag c data) :=
  congrArg Host.Outcome.next (request_ready h rfl hact)

/-- Bytes laid out one by one. -/
theorem flatMap_eq_map {α : Type} {g : α → List Byte} {f : α → Byte} {l : List α} (h : ∀ a, g a = [f a]) :
    l.flatMap g = l.map f := by
  rw [List.map_eq_flatMap, funext h]


/-- Settles O18: a ready request is answered as its block answers; the block's checks one by one, the refusal of a record
by what its table reads from its bytes, and the records' bytes by the layouts. -/
theorem tableRequestsAreRefused : Obligations.TableRequestsAreRefused := by
  unfold Obligations.TableRequestsAreRefused
  refine ⟨fun tag table first count records s h => ⟨fun ht => ?_, fun t ht => ⟨fun hbad => ?_, fun hrec hper hlen => ?_,
    fun run hrun hn hsize hrec hper hout => ?_⟩⟩, fun tag table first count s h => ⟨fun ht => ?_, fun t ht =>
    ⟨fun hbad => ?_, fun hrec hper => ?_, fun i => ?_⟩⟩⟩
  · exact exec_tableWrite h (tableWrite_unknown _ ht)
  · exact exec_tableWrite h (tableWrite_badRun _ ht hbad)
  · exact exec_tableWrite h (tableWrite_badLength _ ht hrec hper hlen)
  · subst hrun
    refine exec_tableWrite h ((tableWrite_checked _ ht hrec hper (hn ▸ flatten_length hsize)).trans ?_)
    rw [← hn] at hper ⊢
    exact writeRun_outside _ hsize hper hout _
  · exact exec_tableRead h (tableRead_unknown _ ht)
  · exact exec_tableRead h (tableRead_badRun _ ht hbad)
  · exact exec_tableRead h (tableRead_checked _ ht hrec hper)
  · refine ⟨?_, ?_, ?_, ?_, ?_, ?_, ?_⟩
    · rfl
    · refine (crew_bytes_eq (s.crew i)).trans ?_
      rw [flatMap_eq_map (f := dayByte)]
      · cases (s.crew i).passback <;> rfl
      · intro d; cases d <;> rfl
    · rfl
    · simp only [recordBytes, BellEntry.bytes, signed8, be8, BitVec.ofNat_toNat, BitVec.setWidth_eq]
      rfl
    · simp only [recordBytes, Pattern.bytes, List.map_eq_flatMap]
      rfl
    · rfl
    · rfl

/-! ## Runs that are stored (R199) -/

section Stored

variable {α : Type} {s : State}

/-- After a run is stored each of its records stands at its index, and every other index reads as before. -/
theorem setRun_stores [DecidableEq α] {d : α} (first : Nat) (run : List α) (t : Table α) :
    (∀ k r, run[k]? = some r → Table.get d (setRun d first run t) (first + k) = r)
      ∧ ∀ i, i < first ∨ first + run.length ≤ i → Table.get d (setRun d first run t) i = Table.get d t i := by
  refine ⟨fun k r hk => ?_, fun i hi => ?_⟩
  · have hlt : k < run.length := (List.getElem?_eq_some_iff.1 hk).1
    rw [get_setRun, if_pos ⟨by omega, by omega⟩, Nat.add_sub_cancel_left, List.getD_eq_getElem?_getD, hk]
    rfl
  · rw [get_setRun, if_neg (by omega)]

/-- A run within its table whose records have their table's size is answered as its write is. -/
theorem exec_writeRun {t : TableId} {tag table first count : Byte} {bytes : α → List Byte} {run : List α} {u : State}
    {c : ReplyCode} (h : Ready (.tableWrite tag table first count (run.flatMap bytes)) s) (ht : tableOf table = some t)
    (hn : run.length = count.toNat + 1) (hper : run.length ≤ t.perRequest) (hrec : first.toNat + run.length ≤ t.records)
    (hsize : ∀ v ∈ run, (bytes v).length = t.size)
    (hwrite : writeRun t first.toNat run.length (run.flatMap bytes) s.taken = answer c u) :
    exec (.tableWrite tag table first count (run.flatMap bytes)) s = .next (u.reply 4#8 tag c []) := by
  have hlen : (run.flatMap bytes).length = run.length * t.size := by
    rw [List.flatMap_def, flatten_length (by simpa using hsize), List.length_map]
  rw [hn] at hlen hper hrec hwrite
  exact exec_tableWrite h ((tableWrite_checked _ ht hrec hper hlen).trans hwrite)

variable {first n : Nat} {records : List Byte}

theorem writeRun_shift {l : List Shift} (h : readRun readShift 14 n records = some l) :
    writeRun .shift first n records s = answer .ok { s with shifts := setRun Shift.cold first l s.shifts } := by
  simp only [writeRun, h]

theorem writeRun_crew {l : List Crew} (h : readRun readCrew 38 n records = some l) :
    writeRun .crew first n records s = answer .ok { s with crews := setRun Crew.cold first l s.crews } := by
  simp only [writeRun, h]

theorem writeRun_rate {l : List Rate} (h : readRun readRate 8 n records = some l) :
    writeRun .rate first n records s = answer .ok { s with rates := setRun Rate.cold first l s.rates } := by
  simp only [writeRun, h]

theorem writeRun_schedule {l : List BellEntry} (h : readRun readBellEntry 11 n records = some l) :
    writeRun .schedule first n records s = answer .ok { s with schedule := setRun BellEntry.cold first l s.schedule } := by
  simp only [writeRun, h]

theorem writeRun_pattern {l : List Pattern} (h : readRun readPattern 9 n records = some l) :
    writeRun .pattern first n records s = answer .ok { s with patterns := setRun Pattern.cold first l s.patterns } := by
  simp only [writeRun, h]

end Stored

/-- Settles O19: a legal record's bytes read back as the record, so the run is read whole and stored at its indices. -/
theorem tableWriteStores : Obligations.TableWriteStores := by
  unfold Obligations.TableWriteStores
  refine ⟨⟨shift_legal_iff, crew_legal_iff, rate_legal_iff, bellEntry_legal_iff⟩,
    fun tag first count run s h hn hper hrec hlegal => ?_, fun tag first count run s h hn hper hrec hlegal => ?_,
    fun tag first count run s h hn hper hrec hlegal => ?_, fun tag first count run s h hn hper hrec hlegal => ?_,
    fun tag first count run s h hn hper hrec hlegal => ?_⟩
  · have hsize : ∀ r ∈ run, r.bytes.length = 14 := fun r _ => shift_bytes_length r
    have hread := readRun_flatMap hsize fun r hr => readShift_bytes (hlegal r hr)
    exact ⟨_, exec_writeRun h rfl hn hper hrec hsize (writeRun_shift hread), rfl, setRun_stores _ _ _⟩
  · have hsize : ∀ r ∈ run, r.bytes.length = 38 := fun r hr => crew_bytes_length (hlegal r hr).2.1
    have hread := readRun_flatMap hsize fun r hr => by
      obtain ⟨hl, hrota, hanchor⟩ := hlegal r hr
      exact readCrew_bytes hl hrota hanchor
    exact ⟨_, exec_writeRun h rfl hn hper hrec hsize (writeRun_crew hread), rfl, setRun_stores _ _ _⟩
  · have hsize : ∀ r ∈ run, r.bytes.length = 8 := fun r _ => rate_bytes_length r
    have hread := readRun_flatMap hsize fun r hr => by
      obtain ⟨hl, hbase, hpremium⟩ := hlegal r hr
      exact readRate_bytes hl hbase hpremium
    exact ⟨_, exec_writeRun h rfl hn hper hrec hsize (writeRun_rate hread), rfl, setRun_stores _ _ _⟩
  · have hsize : ∀ r ∈ run, r.bytes.length = 11 := fun r _ => bellEntry_bytes_length r
    have hread := readRun_flatMap hsize fun r hr => by
      obtain ⟨hl, hweekdays, houtputs⟩ := hlegal r hr
      exact readBellEntry_bytes hl hweekdays houtputs
    exact ⟨_, exec_writeRun h rfl hn hper hrec hsize (writeRun_schedule hread), rfl, setRun_stores _ _ _⟩
  · have hsize : ∀ r ∈ run, r.bytes.length = 9 := fun r hr => pattern_bytes_length (hlegal r hr).1
    have hread := readRun_flatMap hsize fun r hr => by
      obtain ⟨hlen, hduration, hlow, hhigh⟩ := hlegal r hr
      exact readPattern_bytes hlen hduration hlow hhigh
    exact ⟨_, exec_writeRun h rfl hn hper hrec hsize (writeRun_pattern hread), rfl, setRun_stores _ _ _⟩

end Sys2Proof.Proofs
end

section
/-! SUPPORT. Commands that spare the records: operations that touch no worker record, no badge and no number of the roll, and
put no punch into a lane (R35, R50, R93, R177). -/

namespace Sys2Proof.Proofs

open Machine Laws

/-! ## The relation -/

/-- A punch that lane `b` holds was held by lane `a`, which stays RELEASED if it was (R93). -/
def KeepsPunch (a b : Lane) : Prop :=
  ∀ p, b.punch = some p → a.punch = some p ∧ (a.state = .released → b.state = .released)

/-- From `s` to `t` the worker records, the inside count, the badge map, the clock's validity and the roll's two numbers
stand, and no lane gains a punch. -/
structure Spares (s t : State) : Prop where
  workers : t.workers = s.workers
  insideCount : t.insideCount = s.insideCount
  badges : t.badges = s.badges
  valid : t.clock.valid = s.clock.valid
  rollSize : t.evac.rollSize = s.evac.rollSize
  unaccounted : t.evac.unaccounted = s.evac.unaccounted
  lanes : ∀ n, n < 16 → KeepsPunch (s.lane n) (t.lane n)

theorem keepsPunch_same {a b : Lane} (hp : b.punch = a.punch) (hs : b.state = a.state) : KeepsPunch a b :=
  fun _ h => ⟨hp ▸ h, fun h => hs.trans h⟩

theorem keepsPunch_none {a b : Lane} (hp : b.punch = none) : KeepsPunch a b :=
  fun _ h => absurd (hp ▸ h) (by simp)

theorem keepsPunch_notReleased {a b : Lane} (hs : a.state ≠ .released) (hp : b.punch = a.punch) : KeepsPunch a b :=
  fun _ h => ⟨hp ▸ h, fun h => absurd h hs⟩

section Shared

variable {s t u : State}

/-- The items that the relation speaks of. -/
def recordItems (s : State) : Table Worker × Nat × List (Nat × Nat) × Bool × Nat × Nat × Table Lane :=
  (s.workers, s.insideCount, s.badges, s.clock.valid, s.evac.rollSize, s.evac.unaccounted, s.lanes)

/-- An operation that leaves these items as they are. -/
theorem spares_same (h : recordItems t = recordItems s) : Spares s t := by
  simp only [recordItems, Prod.mk.injEq] at h
  obtain ⟨hw, hi, hb, hv, hr, hu, hl⟩ := h
  refine ⟨hw, hi, hb, hv, hr, hu, fun n _ => ?_⟩
  have hn : t.lane n = s.lane n := by unfold State.lane; rw [hl]
  exact keepsPunch_same (congrArg Lane.punch hn) (congrArg Lane.state hn)

theorem spares_refl (s : State) : Spares s s := spares_same rfl

theorem Spares.trans (h1 : Spares s t) (h2 : Spares t u) : Spares s u where
  workers := h2.workers.trans h1.workers
  insideCount := h2.insideCount.trans h1.insideCount
  badges := h2.badges.trans h1.badges
  valid := h2.valid.trans h1.valid
  rollSize := h2.rollSize.trans h1.rollSize
  unaccounted := h2.unaccounted.trans h1.unaccounted
  lanes n hn p hp := by
    obtain ⟨ht, hr2⟩ := h2.lanes n hn p hp
    obtain ⟨hs, hr1⟩ := h1.lanes n hn p ht
    exact ⟨hs, hr2 ∘ hr1⟩

theorem Spares.worker (h : Spares s t) (i : Nat) : t.worker i = s.worker i := by
  unfold State.worker; rw [h.workers]

theorem foldl_spares {β : Type} {f : State → β → State} (hf : ∀ u b, Spares s u → Spares s (f u b)) (l : List β)
    (h : Spares s t) : Spares s (l.foldl f t) :=
  List.foldlRecOn l f h fun u hu b _ => hf u b hu

theorem sends_spares (hs : Sends t u) (h : Spares s t) : Spares s u := by
  obtain ⟨q, rfl, -⟩ := hs
  exact h.trans (spares_same rfl)

theorem setLane_spares {n : Nat} {l : Lane} (hl : n < 16 → KeepsPunch (t.lane n) l) (h : Spares s t) :
    Spares s (t.setLane n l) := by
  refine h.trans ⟨rfl, rfl, rfl, rfl, rfl, rfl, fun k hk => ?_⟩
  rw [setLane_read]
  split
  · next e => subst e; exact hl hk
  · exact keepsPunch_same rfl rfl

/-- A lane write that leaves punch and state. -/
theorem setLane_spares_same {n : Nat} {l : Lane} (hl : (l.punch, l.state) = ((t.lane n).punch, (t.lane n).state))
    (h : Spares s t) : Spares s (t.setLane n l) :=
  setLane_spares (fun _ => keepsPunch_same (congrArg Prod.fst hl) (congrArg Prod.snd hl)) h

theorem offerEntry_spares {b : EntryBody} (h : Spares s t) : Spares s (offerEntry b t) :=
  h.trans (spares_same (by simp [recordItems]))

theorem setConditions_spares {n : Nat} {c : LaneConditions} (h : Spares s t) : Spares s (setConditions n c t) :=
  sends_spares (setConditions_spec n c t) (setLane_spares_same rfl h)

theorem flagJournal_spares {high full : Bool} (h : Spares s t) : Spares s (flagJournal high full t) :=
  sends_spares (flagJournal_spec high full t) (h.trans (spares_same rfl))

theorem updateJournalConditions_spares {before : State} (h : Spares s t) :
    Spares s (updateJournalConditions before t) :=
  flagJournal_spares h

theorem flagEvacuating_spares (h : Spares s t) : Spares s (flagEvacuating t) :=
  sends_spares (flagEvacuating_spec t) (h.trans (spares_same rfl))

theorem flagCloseDone_spares (h : Spares s t) : Spares s (flagCloseDone t) :=
  sends_spares (flagCloseDone_spec t) (h.trans (spares_same rfl))

/-! ## Lanes -/

theorem endRelease_spares {n : Nat} {next : LaneState} (h : Spares s t) : Spares s (endRelease n next t) := by
  have h1 : Spares s (t.setLane n (released (t.lane n) next)) := setLane_spares (fun _ => keepsPunch_none rfl) h
  cases hp : (t.lane n).punch with
  | none => rw [endRelease_none n next t hp]; exact h1
  | some p => rw [endRelease_some n next t hp]; exact offerEntry_spares h1

/-- A lane that is lost gives up its release or leaves another state (R63). -/
theorem loseLane_spares {n : Nat} (h : Spares s t) : Spares s (loseLane n t) := by
  unfold loseLane
  refine setConditions_spares (setLane_spares_same rfl ?_)
  split
  · exact endRelease_spares h
  · next hl => exact setLane_spares (fun _ => keepsPunch_notReleased (by simp [hl]) rfl) h
  · next hl _ => exact setLane_spares (fun _ => keepsPunch_notReleased hl rfl) h

theorem missedReply_spares {n : Nat} (h : Spares s t) : Spares s (missedReply n t) := by
  unfold missedReply
  dsimp only
  split
  · exact setLane_spares_same rfl h
  split
  · exact loseLane_spares (setLane_spares_same rfl h)
  · exact setLane_spares_same rfl h

theorem goodReply_spares {n : Nat} (h : Spares s t) : Spares s (goodReply n t) := by
  unfold goodReply
  dsimp only
  split
  · next hlost =>
    split
    · exact setConditions_spares (setLane_spares (fun _ => keepsPunch_notReleased (by simp [hlost]) rfl) h)
    · exact setLane_spares_same rfl h
  · exact setLane_spares_same rfl h

theorem endExchange_spares {n : Nat} (h : Spares s t) : Spares s (endExchange n t) := setLane_spares_same rfl h

theorem awaitsReply_lane {n : Nat} (h : s.awaitsReply n = true) : n < 16 := by
  simp only [State.awaitsReply, Bool.and_eq_true, decide_eq_true_eq] at h
  exact h.1.1.2

/-- What a good event reply can do: nothing, or, on one of the 16 lanes, the reply's own effect, which spares the records, and
then perhaps the event's. -/
theorem headEvent_cases (n : Nat) (bit : Bool) (act : State → State) (s : State) :
    headEvent n bit act s = s
      ∨ ∃ u, n < 16 ∧ Spares s u ∧ (headEvent n bit act s = u ∨ headEvent n bit act s = act u) := by
  unfold headEvent
  split
  · next h =>
    have hn := awaitsReply_lane h
    have h0 : Spares s (endExchange n s) := endExchange_spares (spares_refl s)
    dsimp only
    split
    · exact .inr ⟨_, hn, goodReply_spares h0, .inl rfl⟩
    · have h1 := goodReply_spares (n := n)
        (setLane_spares_same (n := n) (l := { (endExchange n s).lane n with lastBit := some bit }) rfl h0)
      split
      · exact .inr ⟨_, hn, h1, .inl rfl⟩
      · exact .inr ⟨_, hn, h1, .inr rfl⟩
  · exact .inl rfl

theorem sendVerdict_spares {n : Nat} {v : Verdict} {d : Nat} (h : Spares s t) : Spares s (sendVerdict n v d t) :=
  setLane_spares_same rfl h

theorem openLane_spares {n : Nat} (h : Spares s t) : Spares s (openLane n t) :=
  setLane_spares (fun _ => keepsPunch_none rfl) h

theorem doorClosed_spares {n : Nat} (h : Spares s t) : Spares s (doorClosed n t) := by
  unfold doorClosed
  dsimp only
  split
  · next ho => exact setConditions_spares (setLane_spares (fun _ => keepsPunch_notReleased (by simp [ho]) rfl) h)
  · exact h

theorem setMode_spares {n : Nat} {m : LaneMode} (h : Spares s t) : Spares s (setMode n m t) := by
  unfold setMode
  dsimp only
  split
  · exact endRelease_spares (setLane_spares_same rfl h)
  split
  · exact setLane_spares_same rfl (setLane_spares_same rfl h)
  · exact setLane_spares_same rfl h

theorem disableLane_spares {n : Nat} (h : Spares s t) : Spares s (disableLane n t) :=
  setConditions_spares (setLane_spares_same rfl (endRelease_spares h))

/-- A LANE write that enables only lanes without a punch spares the records (R58, R59). -/
theorem writeLanes_spares {first : Nat} {l : List LaneRecord}
    (h : ∀ n, n < 16 → (s.laneRecord n).enabled = false → (s.lane n).punch = none) : Spares s (writeLanes first l s) := by
  refine foldl_spares (f := laneWritten s) (fun u n hu => ?_) _ (spares_same rfl)
  unfold laneWritten
  split
  · next he _ =>
    refine setLane_spares (fun hn => keepsPunch_none ?_) hu
    cases hp : (u.lane n).punch with
    | none => rfl
    | some p => exact absurd ((h n hn he).symm.trans (hu.lanes n hn p hp).1) (by simp)
  · exact disableLane_spares hu
  · exact hu

/-! ## Bells and evacuation -/

theorem ringOutputs_spares {m : Byte} {r : BellRequest} (h : Spares s t) : Spares s (ringOutputs m r t) :=
  foldl_spares (f := ringOutput r) (fun _ _ hu => hu.trans (spares_same rfl)) _ h

theorem fireEntry_spares {time i : Nat} (h : Spares s t) : Spares s (fireEntry time t i) := by
  unfold fireEntry
  dsimp only
  split
  · exact ringOutputs_spares h
  · exact h

theorem fireBells_spares {previous new : Nat} (h : Spares s t) : Spares s (fireBells previous new t) :=
  foldl_spares (f := fireAt) (fun _ time hu => foldl_spares (f := fireEntry time) (fun _ _ => fireEntry_spares) _ hu) _ h

theorem soundTone_spares (h : Spares s t) : Spares s (soundTone t) :=
  foldl_spares (f := fun u o => u.setArbiter o t.toneArbiter) (fun _ _ hu => hu.trans (spares_same rfl)) _ h

theorem suspendClose_spares (h : Spares s t) : Spares s (suspendClose t) := by
  unfold suspendClose
  split
  · exact h.trans (spares_same rfl)
  · exact h

theorem resumeClose_spares (h : Spares s t) : Spares s (resumeClose t) := by
  unfold resumeClose
  split
  · exact h.trans (spares_same rfl)
  · exact h

theorem idleBells_spares (h : Spares s t) : Spares s (idleBells t) := h.trans (spares_same rfl)

theorem restoreClose_spares (h : Spares s t) : Spares s (restoreClose t) := h.trans (spares_same rfl)

theorem evacuateLane_spares {n : Nat} (h : Spares s t) : Spares s (evacuateLane t n) := by
  unfold evacuateLane
  split
  · exact endRelease_spares h
  · exact h

theorem restartHeld_spares {n : Nat} (h : Spares s t) : Spares s (restartHeld t n) := by
  unfold restartHeld
  split
  · exact setLane_spares_same rfl h
  · exact h

end Shared

/-! ## The blocks that answer requests -/

section Blocks

variable {s : State}

/-- A block that refuses with the state as it is, or else spares the records. -/
theorem refused_spares {bad : Prop} [Decidable bad] {c : ReplyCode} {a : Answer} (ha : Spares s a.state) :
    Spares s (if bad then answer c s else a).state := by
  split
  · exact spares_refl s
  · exact ha

theorem alertMaskSet_spares (mask enable : Byte) : Spares s (alertMaskSet mask enable s).state := by
  unfold alertMaskSet
  split
  · exact spares_refl s
  · exact spares_same rfl

/-- A run of any table but LANE is stored without a change of the records. -/
theorem writeRun_spares {t : TableId} (ht : t ≠ .lane) (first n : Nat) (records : List Byte) :
    Spares s (writeRun t first n records s).state := by
  cases t
  case lane => exact absurd rfl ht
  case part =>
    unfold writeRun
    dsimp only
    split
    · exact updateJournalConditions_spares (spares_same rfl)
    · exact spares_refl s
  all_goals
    unfold writeRun
    dsimp only
    split <;> exact spares_same rfl

theorem tableRead_spares (table first count : Byte) : Spares s (tableRead table first count s).state := by
  unfold tableRead
  split
  · exact spares_refl s
  · exact refused_spares (spares_refl s)

theorem laneMode_spares (lane : Byte) (m : LaneMode) : Spares s (laneMode lane m s).state := by
  unfold laneMode
  exact refused_spares (a := answer .ok (setMode lane.toNat m s)) (setMode_spares (spares_refl s))

theorem lanePulse_spares (lane : Byte) : Spares s (lanePulse lane s).state :=
  refused_spares (refused_spares (refused_spares (refused_spares (refused_spares
    (offerEntry_spares (setLane_spares (fun _ => keepsPunch_none rfl) (spares_refl s)))))))

theorem countersLatch_spares (selector : Byte) : Spares s (countersLatch selector s).state := by
  unfold countersLatch
  split
  · exact spares_refl s
  · exact foldl_spares (f := latchLane) (fun _ _ hu => setLane_spares_same rfl hu) _ (spares_refl s)

theorem countersRead_spares (selector : Byte) : Spares s (countersRead selector s).state := by
  unfold countersRead
  split <;> exact spares_refl s

theorem countersReset_spares (selector : Byte) : Spares s (countersReset selector s).state := by
  unfold countersReset
  split
  · exact spares_refl s
  · exact foldl_spares (f := resetLane) (fun _ _ hu => setLane_spares_same rfl hu) _ (spares_refl s)

theorem setHolding_spares (holding : Table Holding) : Spares s { s with holding := holding } := spares_same rfl

theorem totalsLatch_spares (selector : Half) : Spares s (totalsLatch selector s).state := by
  unfold totalsLatch
  dsimp only
  split
  · exact setHolding_spares _
  split
  · exact setHolding_spares _
  · exact spares_refl s

theorem periodClose_spares (crews : Half) : Spares s (periodClose crews s).state := by
  refine refused_spares ?_
  split <;> exact spares_same rfl

theorem closeCancel_spares : Spares s (closeCancel s).state := by
  unfold closeCancel
  split <;> exact spares_same rfl

theorem journalStatus_spares (clear : Byte) : Spares s (journalStatus clear s).state := by
  unfold journalStatus
  split
  · exact spares_refl s
  · dsimp only
    split
    · exact spares_same rfl
    · exact spares_refl s

theorem bellSilence_spares (outputs : Byte) : Spares s (bellSilence outputs s).state :=
  foldl_spares (f := fun u o => u.setArbiter o s.silencedArbiter) (fun _ _ hu => hu.trans (spares_same rfl)) _
    (spares_refl s)

theorem badgeFind_spares (code : Word) : Spares s (badgeFind code s).state := by
  refine refused_spares ?_
  split <;> exact spares_refl s

end Blocks

/-! ## Events -/

section Events

variable {s : State}

theorem segmentEnd_spares (o : Nat) : Spares s (segmentEnd o s) := by
  unfold segmentEnd
  dsimp only
  split
  · split
    · split
      · exact spares_same rfl
      · exact spares_refl s
    · exact spares_refl s
  · exact spares_refl s

theorem pollExpiry_spares (n : Nat) : Spares s (pollExpiry n s) := by
  unfold pollExpiry
  dsimp only
  split
  · exact setLane_spares_same rfl (spares_refl s)
  · exact spares_refl s

theorem headEmpty_spares (n : Nat) : Spares s (headEmpty n s) := by
  unfold headEmpty
  split
  · exact goodReply_spares (endExchange_spares (spares_refl s))
  · exact spares_refl s

theorem replyMissed_spares (n : Nat) : Spares s (replyMissed n s) := by
  unfold replyMissed
  dsimp only
  split
  · exact missedReply_spares (endExchange_spares (spares_refl s))
  · exact spares_refl s

theorem replyBad_spares (n : Nat) : Spares s (replyBad n s) := by
  unfold replyBad
  dsimp only
  split
  · exact missedReply_spares (setLane_spares_same rfl (endExchange_spares (spares_refl s)))
  · exact spares_refl s

theorem releaseExpiry_spares (n : Nat) : Spares s (releaseExpiry n s) := by
  unfold releaseExpiry
  dsimp only
  split
  · exact endRelease_spares (spares_refl s)
  · exact spares_refl s

theorem heldExpiry_spares (n : Nat) : Spares s (heldExpiry n s) := by
  unfold heldExpiry
  dsimp only
  split
  · split
    · exact offerEntry_spares (setConditions_spares (setLane_spares_same rfl (spares_refl s)))
    · exact setLane_spares_same rfl (spares_refl s)
  · exact spares_refl s

theorem gatherExpiry_spares : Spares s (gatherExpiry s) := by
  unfold gatherExpiry
  split
  · split
    · exact offerEntry_spares (spares_same rfl)
    · exact flagCloseDone_spares (spares_same rfl)
  · exact spares_refl s

theorem fireInactive_spares : Spares s (fireInactive s) := by
  unfold fireInactive
  split <;> exact spares_same rfl

theorem chainInactive_spares : Spares s (chainInactive s) := by
  unfold chainInactive
  split <;> exact spares_same rfl

/-! ### The two ports -/

theorem downwardReceived_spares (l : List Byte) : Spares s (downwardReceived l s) := by
  obtain ⟨link, e⟩ := downwardReceived_form (s := s) l
  rw [e]
  exact spares_same rfl

theorem upwardReceived_spares (l : List Byte) : Spares s (upwardReceived l s) := by
  obtain ⟨link, e⟩ := upwardReceived_form (s := s) l
  rw [e]
  exact spares_same rfl

theorem downwardSend_spares : Spares s (downwardSend s) := by
  unfold downwardSend
  split
  · split <;> exact spares_same rfl
  · exact spares_refl s

theorem transmit_spares : Spares s (transmit s) := by
  unfold transmit
  split
  · split
    · unfold transmitFrom
      split <;> split <;> exact spares_same rfl
    · exact spares_refl s
  · exact spares_refl s

/-! ### Power -/

theorem restartReplySent_spares : Spares s (restartReplySent s) := by
  unfold restartReplySent
  split <;> exact spares_same rfl

theorem powerUp_spares : Spares s (powerUp s) := by
  unfold powerUp
  split
  · exact spares_refl s
  split <;> exact spares_same rfl

theorem mainPowerLost_spares : Spares s (mainPowerLost s) := by
  unfold mainPowerLost
  split <;> exact spares_same rfl

theorem retainedLost_spares : Spares s (retainedLost s) := by
  unfold retainedLost
  split <;> exact spares_same rfl

end Events

end Sys2Proof.Proofs
end

section
/-! SUPPORT. Which operations a property of the worker records, the badge map, the released punches and the roll must be kept
by: the few that do not spare the records. Every command is made of them and of operations that spare the records. -/

namespace Sys2Proof.Proofs

open Machine Laws

/-- A request's command leads from a property of the state before it to one of the state after it, when its block does and
neither speaks of the Chain Port; the second follows from the first. -/
theorem takeRequest_leads {P Q : State → Prop} (hP : ∀ u link, P u → P { u with link := link })
    (hQ : ∀ u link, Q u → Q { u with link := link }) (hPQ : ∀ u, P u → Q u) (i : Instr) {act : State → Answer}
    (ha : ∀ u, P u → Q (act u).state) {s : State} (h : P s) : Q (takeRequest i act s) := by
  rcases takeRequest_cases i act s with e | ⟨r, s1, -, -, h1, e⟩
  · rw [e]; exact hPQ s h
  · have hs1 : P s1 := by
      rcases h1 with rfl | rfl
      · exact h
      · unfold offerRequest
        split <;> exact hP _ _ h
    rcases e with e | ⟨-, -, e⟩
    · rw [e]; exact hPQ s1 hs1
    · have hact := ha _ (hP s1 { s1.link with requests := s1.link.requests.tail } hs1)
      rw [e]
      unfold finishRequest
      split
      · exact hact
      · exact hQ _ _ hact

/-- The property `P` is kept by each operation that does not spare the records; those on the lane tables may ask for `L`, what
is known of the lanes before the command. -/
structure KeptByRecords (L P : State → Prop) : Prop where
  spared : ∀ {s t}, P s → Spares s t → P t
  /-- Expiries (R40, R102). -/
  expiries : ∀ {s}, P s → P (takeExpiries s)
  /-- A close reaches a record (R132, R133). -/
  reached : ∀ {s} i p, P s → P (reachRecord i p s)
  /-- The muster roll is rebuilt (R177). -/
  roll : ∀ {s}, P s → P (buildRoll s)
  /-- The records and the inside count at the clear (R181 step 3). -/
  cleared : ∀ {s}, P s →
    P { s with workers := Table.update Worker.zeroed Worker.cleared s.workers, insideCount := 0 }
  /-- The clock is set (R8). -/
  clockSet : ∀ {s} c, c.valid = true → P s → P { s with clock := c }
  /-- A start (R205). -/
  started : ∀ {s} k strap, P s → P (Machine.startValues k strap s)
  cold : ∀ s, P (coldDomain s)
  /-- A punch and a passage (R65, R68). -/
  punch : ∀ {s} n code key, P s → P (punchTaken n code key s)
  door : ∀ {s n}, n < 16 → P s → P (doorOpened n s)
  /-- The requests of the Worker Table and the Badge Map. -/
  workerSet : ∀ {s} index status crew rateClass flags, P s → P (workerSet index status crew rateClass flags s).state
  workerFree : ∀ {s} index, P s → P (workerFree index s).state
  presenceSet : ∀ {s} index presence, P s → P (presenceSet index presence s).state
  badgeAdd : ∀ {s} code index, P s → P (badgeAdd code index s).state
  badgeRemove : ∀ {s} code, P s → P (badgeRemove code s).state
  /-- Every lane is changed, but for punch and state. -/
  lanesMoved : ∀ {s} (f : Lane → Lane), f Lane.cold = Lane.cold → (∀ l, (f l).punch = l.punch ∧ (f l).state = l.state) →
    L s → P s → P { s with lanes := Table.update Lane.cold f s.lanes }
  /-- A LANE write (R57 to R59). -/
  lanesWritten : ∀ {s} first l, L s → P s → P (writeLanes first l s)

namespace KeptByRecords

variable {L P : State → Prop} {s : State}

/-! ## The blocks that answer requests -/

/-- A block that refuses with the state as it is, or else keeps the property. -/
theorem refused {bad : Prop} [Decidable bad] {c : ReplyCode} {a : Answer} (h : P s) (ha : P a.state) :
    P (if bad then answer c s else a).state := by
  split
  · exact h
  · exact ha

theorem accepted {c : ReplyCode} (h : P s) : P (answer c s).state := h

theorem statusRead (k : KeptByRecords L P) (clear : Byte) (hl : L s) (h : P s) : P (statusRead clear s).state := by
  unfold Machine.statusRead
  split
  · exact h
  · dsimp only
    split
    · exact k.spared (k.lanesMoved Lane.unflagged rfl (fun _ => ⟨rfl, rfl⟩) hl h) (spares_same rfl)
    · exact h

theorem tableWrite (k : KeptByRecords L P) (table first count : Byte) (records : List Byte) (hl : L s) (h : P s) :
    P (tableWrite table first count records s).state := by
  unfold Machine.tableWrite
  split
  · exact h
  · next t _ =>
    refine refused h (refused h ?_)
    by_cases ht : t = .lane
    · subst ht
      unfold writeRun
      dsimp only
      split
      · exact k.lanesWritten _ _ hl h
      · exact h
    · exact k.spared h (writeRun_spares ht _ _ _)

theorem timeSet (k : KeptByRecords L P) (time : Word) (offset : Byte) (h : P s) : P (timeSet time offset s).state :=
  refused h (k.expiries (k.clockSet _ rfl (k.spared h (offerEntry_spares (spares_refl s)))))

theorem startEvacuation (k : KeptByRecords L P) (c : Cause) (h : P s) : P (startEvacuation c s) := by
  unfold Machine.startEvacuation
  extract_lets control s1 s2 s3 s4
  have h2 : P s2 :=
    k.spared h (foldl_spares (f := evacuateLane) (fun _ _ => evacuateLane_spares) _ (spares_same (s := s) (t := s1) rfl))
  have h4 : Spares (buildRoll s2) s4 := suspendClose_spares (soundTone_spares (spares_refl _))
  exact k.spared (k.roll h2) (flagEvacuating_spares (offerEntry_spares h4))

theorem takeCause (k : KeptByRecords L P) (c : Cause) (h : P s) : P (takeCause c s) := by
  unfold Machine.takeCause
  split
  · exact k.spared h (spares_same rfl)
  · exact k.startEvacuation c h

theorem takeChain (k : KeptByRecords L P) (h : P s) : P (takeChain s) := by
  unfold Machine.takeChain
  split
  · exact k.takeCause _ h
  · exact h

theorem clearEvacuation (k : KeptByRecords L P) (h : P s) : P (clearEvacuation s) := by
  unfold Machine.clearEvacuation
  extract_lets control s1 s2 s3 s4 s5
  have h2 : P s2 := k.cleared (k.spared h (spares_same (s := s) (t := s1) rfl))
  have h3 : Spares s2 s3 := foldl_spares (f := restartHeld) (fun _ _ => restartHeld_spares) _ (spares_refl s2)
  have h4 : Spares s2 s4 := resumeClose_spares (idleBells_spares h3)
  have h5 : P s5 := k.expiries (k.spared h2 h4)
  exact k.spared h5 (flagEvacuating_spares (offerEntry_spares (spares_refl s5)))

theorem evacuationClear (k : KeptByRecords L P) (h : P s) : P (evacuationClear s).state :=
  refused h (refused h (accepted (k.clearEvacuation h)))

/-- Every block keeps the property. -/
theorem owningBlock (k : KeptByRecords L P) {i : Instr} {act : State → Answer} (e : owningBlock i = some act) (hl : L s)
    (h : P s) : P (act s).state := by
  cases i <;> cases e
  case statusRead => exact k.statusRead _ hl h
  case tableWrite => exact k.tableWrite _ _ _ _ hl h
  case timeSet => exact k.timeSet _ _ h
  case workerSet => exact k.workerSet _ _ _ _ _ h
  case workerFree => exact k.workerFree _ h
  case presenceSet => exact k.presenceSet _ _ h
  case badgeAdd => exact k.badgeAdd _ _ h
  case badgeRemove => exact k.badgeRemove _ h
  case evacuate => exact k.takeCause _ h
  case evacuationClear => exact k.evacuationClear h
  all_goals refine k.spared h ?_
  case alertMask => exact alertMaskSet_spares _ _
  case tableRead => exact tableRead_spares _ _ _
  case restart => exact spares_same rfl
  case timeSlew => exact refused_spares (spares_same rfl)
  case badgeFind => exact badgeFind_spares _
  case laneCommandNormal => exact laneMode_spares _ _
  case laneCommandLocked => exact laneMode_spares _ _
  case laneCommandUnlocked => exact laneMode_spares _ _
  case laneCommandPulse => exact lanePulse_spares _
  case laneCountersLatch => exact countersLatch_spares _
  case laneCountersRead => exact countersRead_spares _
  case laneCountersReset => exact countersReset_spares _
  case totalsLatch => exact totalsLatch_spares _
  case periodClose => exact periodClose_spares _
  case closeCancel => exact closeCancel_spares
  case journalTrim => exact refused_spares (updateJournalConditions_spares (spares_same rfl))
  case journalStatus => exact journalStatus_spares _
  case bellRing => exact refused_spares (ringOutputs_spares (spares_refl s))
  case bellSilence => exact bellSilence_spares _
  case describe => exact spares_refl s
  case timeRead => exact spares_refl s
  case closeStatus => exact spares_refl s
  case bellStatus => exact spares_refl s
  case unknownRequest => exact spares_refl s
  all_goals exact refused_spares (spares_refl s)

/-! ## Events -/

theorem millisecond (k : KeptByRecords L P) (hl : L s) (h : P s) : P (millisecond s) := by
  unfold Machine.millisecond
  dsimp only
  split
  · split
    · exact k.spared (k.lanesMoved (Lane.afterMs 1) rfl (fun _ => ⟨rfl, rfl⟩) hl h) (spares_same rfl)
    · exact k.spared h (spares_same rfl)
  · exact h

theorem tick (k : KeptByRecords L P) (fire chain : Bool) (hl : L s) (h : P s) : P (tick fire chain s) := by
  unfold Machine.tick
  split
  · have hm := k.lanesMoved (fun l => (l.afterMs (100 - s.clock.msDivider)).afterTick) rfl (fun _ => ⟨rfl, rfl⟩) hl h
    refine k.spared hm ?_
    exact spares_same (by simp [recordItems, tickBlocks, Evac.tick])
  split
  · exact k.spared h (spares_same (by simp [recordItems]))
  · exact h

theorem secondTick (k : KeptByRecords L P) (h : P s) : P (secondTick s) := by
  unfold Machine.secondTick
  dsimp only
  split
  · split
    · exact k.expiries (k.spared h (fireBells_spares (spares_same rfl)))
    · exact k.spared h (spares_same rfl)
  · exact h

theorem walkStep (k : KeptByRecords L P) (h : P s) : P (walkStep s) := by
  unfold Machine.walkStep
  dsimp only
  split
  · refine k.spared (k.reached s.close.walkIndex (s.worker s.close.walkIndex).presence h) ?_
    split
    · exact flagCloseDone_spares (offerEntry_spares (spares_same rfl))
    · exact spares_same rfl
  · exact h

theorem headEvent (k : KeptByRecords L P) {n : Nat} {bit : Bool} {act : State → State}
    (ha : ∀ u, n < 16 → P u → P (act u)) (h : P s) : P (headEvent n bit act s) := by
  rcases headEvent_cases n bit act s with e | ⟨u, hn, hu, e | e⟩ <;> rw [e]
  · exact h
  · exact k.spared h hu
  · exact ha u hn (k.spared h hu)

theorem fireActive (k : KeptByRecords L P) (h : P s) : P (fireActive s) := by
  unfold Machine.fireActive
  split
  · exact k.takeCause _ (k.spared h (spares_same rfl))
  · exact h

theorem chainActive (k : KeptByRecords L P) (h : P s) : P (chainActive s) := by
  unfold Machine.chainActive
  split
  · exact k.takeChain (k.spared h (spares_same rfl))
  · exact h

theorem restoreEvacuation (k : KeptByRecords L P) (fire chain : Bool) (h : P s) :
    P (restoreEvacuation fire chain s) := by
  unfold Machine.restoreEvacuation
  extract_lets s1 s2 s3
  have h2 : P s2 := by
    refine k.spared h ?_
    unfold s2
    split
    · exact flagEvacuating_spares (soundTone_spares (spares_same rfl))
    · exact spares_same rfl
  have h3 : P s3 := by
    unfold s3
    split
    · exact k.takeCause _ h2
    · exact h2
  exact k.takeChain h3

theorem startComplete (k : KeptByRecords L P) (fire chain : Bool) (strap : BitVec 5) (h : P s) :
    P (startComplete fire chain strap s) := by
  unfold Machine.startComplete
  split
  · exact h
  · next kind _ =>
    split
    · have h0 : P (if kind = .cold then coldDomain s else s) := by
        split
        · exact k.cold s
        · exact h
      have h1 := k.expiries (k.spared (k.started kind strap h0) (restoreClose_spares (spares_refl _)))
      exact k.spared (k.restoreEvacuation fire chain h1) (flagJournal_spares (spares_refl _))
    · exact h

/-- Every event keeps the property. -/
theorem eventEffect (k : KeptByRecords L P) (i : Instr) (hl : L s) (h : P s) : P (eventEffect i s) := by
  cases i
  case tick100ms => exact k.tick _ _ hl h
  case secondTick => exact k.secondTick h
  case headPunch => exact k.headEvent (fun _ _ => k.punch _ _ _) h
  case headDoorOpen => exact k.headEvent (fun _ hn => k.door hn) h
  case headDoorClosed => exact k.headEvent (fun u _ hu => k.spared hu (doorClosed_spares (spares_refl u))) h
  case headTamperOn => exact k.headEvent (fun u _ hu => k.spared hu (setConditions_spares (spares_refl u))) h
  case headTamperOff => exact k.headEvent (fun u _ hu => k.spared hu (setConditions_spares (spares_refl u))) h
  case walkStep => exact k.walkStep h
  case fireActive => exact k.fireActive h
  case chainLevelActive => exact k.chainActive h
  case startComplete => exact k.startComplete _ _ _ h
  all_goals refine k.spared h ?_
  case downwardFrameReceived => exact downwardReceived_spares _
  case upwardFrameReceived => exact upwardReceived_spares _
  case downwardForwardSend => exact downwardSend_spares
  case upwardTransmit => exact transmit_spares
  case restartReplySent => exact restartReplySent_spares
  case segmentEnd => exact segmentEnd_spares _
  case pollTimerExpiry => exact pollExpiry_spares _
  case headEmpty => exact headEmpty_spares _
  case laneReplyBad => exact replyBad_spares _
  case laneReplyMissed => exact replyMissed_spares _
  case releaseTimerExpiry => exact releaseExpiry_spares _
  case heldTimerExpiry => exact heldExpiry_spares _
  case gatherTimerExpiry => exact gatherExpiry_spares
  case fireInactive => exact fireInactive_spares
  case chainLevelInactive => exact chainInactive_spares
  case powerUp => exact powerUp_spares
  case mainPowerLost => exact mainPowerLost_spares
  case resetInputActive => exact spares_same rfl
  case retainedDomainLost => exact retainedLost_spares
  all_goals exact spares_refl s

/-- Every command keeps the property. -/
theorem effect (k : KeptByRecords L P) (hlink : ∀ u link, L u → L { u with link := link }) (i : Instr) (hl : L s)
    (h : P s) : P (effect i s) := by
  unfold Proofs.effect
  split
  · next act e =>
    exact takeRequest_leads (P := fun u => L u ∧ P u)
      (fun u link hu => ⟨hlink u link hu.1, k.spared hu.2 (spares_same rfl)⟩)
      (fun _ _ hu => k.spared hu (spares_same rfl)) (fun _ hu => hu.2) i (fun _ hu => k.owningBlock e hu.1 hu.2) ⟨hl, h⟩
  · exact k.eventEffect i hl h

/-- Every step keeps the property, from a state of whose lanes `L` is known. -/
theorem step (k : KeptByRecords L P) (hlink : ∀ u link, L u → L { u with link := link })
    (hpending : ∀ u rest, L u → L { u with pending := rest }) {t : State} (hl : L s) (h : P s)
    (hst : Machine.step s = .next t) : P t := by
  have hstart : ∃ u, L u ∧ P u ∧ (t = Machine.millisecond u ∨ ∃ i, t = Proofs.effect i u) := by
    unfold Machine.step at hst
    split at hst
    · cases hst; exact ⟨s, hl, h, .inl rfl⟩
    · next c rest _ =>
      exact ⟨_, hpending s rest hl, k.spared h (spares_same rfl), .inr ⟨c, eq_effect hst⟩⟩
  obtain ⟨u, hlu, hu, rfl | ⟨i, rfl⟩⟩ := hstart
  · exact k.millisecond hlu hu
  · exact k.effect hlink i hlu hu

end KeptByRecords

end Sys2Proof.Proofs
end

section
/-! PROOF. The muster roll (R177): every operation on the records keeps the unaccounted count equal to the number of records
marked UNACCOUNTED, none of them FREE. -/

namespace Sys2Proof.Proofs

open Machine Laws

section Roll

variable {s t : State}

theorem roll_spared (h : RollAgrees s) (hst : Spares s t) : RollAgrees t where
  workers := by rw [hst.workers]; exact h.workers
  count := by unfold State.unaccountedRecords; rw [hst.unaccounted, hst.workers]; exact h.count
  size := by rw [hst.unaccounted, hst.rollSize]; exact h.size
  inUse i := by rw [hst.worker]; exact h.inUse i

/-- Operations on records that leave every mark and every status keep the roll. -/
theorem roll_pays (h : RollAgrees s) (hst : Pays s t) : RollAgrees t where
  workers := hst.canonical h.workers
  count := by rw [hst.evac, hst.roll h.workers]; exact h.count
  size := by rw [hst.evac]; exact h.size
  inUse i hm := by
    unfold Worker.inUse
    rw [hst.status]
    exact h.inUse i (hst.muster i ▸ hm)

/-! ## One record is written -/

/-- A write of a record whose mark is UNACCOUNTED only if it was keeps the roll, once the unaccounted count follows. -/
theorem roll_setWorker {i n : Nat} {w : Worker} (h : RollAgrees s)
    (hm : w.muster = .unaccounted → (s.worker i).muster = .unaccounted ∧ w.inUse = true)
    (hn : n + (if (s.worker i).muster = .unaccounted then 1 else 0) =
      s.evac.unaccounted + if w.muster = .unaccounted then 1 else 0) :
    RollAgrees { s.setWorker i w with evac := { s.evac with unaccounted := n } } := by
  have hcount := unaccounted_setWorker h.workers i w
  have hold := h.count
  have hsize := h.size
  refine ⟨wf_set h.workers i w, ?_, ?_, fun j hj => ?_⟩
  · show n = (s.setWorker i w).unaccountedRecords
    omega
  · show n ≤ s.evac.rollSize
    by_cases hw : w.muster = .unaccounted
    · rw [if_pos hw, if_pos (hm hw).1] at hn
      omega
    · rw [if_neg hw] at hn
      omega
  · have hread : State.worker { s.setWorker i w with evac := { s.evac with unaccounted := n } } j =
        if j = i then w else s.worker j := setWorker_read ..
    rw [hread] at hj ⊢
    by_cases hji : j = i
    · rw [if_pos hji] at hj ⊢
      exact (hm hj).2
    · rw [if_neg hji] at hj ⊢
      exact h.inUse j hj

/-- A record is marked UNACCOUNTED only while the count is not 0. -/
theorem roll_positive {i : Nat} (h : RollAgrees s) (hm : (s.worker i).muster = .unaccounted) :
    0 < s.evac.unaccounted := by
  have := unaccounted_setWorker h.workers i Worker.zeroed
  rw [if_pos hm, if_neg (by decide : ¬ Worker.zeroed.muster = .unaccounted)] at this
  rw [h.count]
  omega

/-- A record that is not UNACCOUNTED is written, and the unaccounted count loses the old mark (R177). -/
theorem roll_accounted {i : Nat} {w : Worker} (h : RollAgrees s) (hw : w.muster ≠ .unaccounted) :
    RollAgrees { s.setWorker i w with
      evac := { s.evac with unaccounted := unaccountedAfter s.evac.unaccounted (s.worker i).muster } } := by
  refine roll_setWorker h (fun hm => absurd hm hw) ?_
  unfold unaccountedAfter
  rw [if_neg hw]
  split
  · next hm =>
    have := roll_positive h hm
    omega
  · rfl

/-- A record in use is written that stays in use with its mark. -/
theorem roll_sameMark {i : Nat} {w : Worker} (h : RollAgrees s) (hm : w.muster = (s.worker i).muster)
    (hu : w.inUse = true) : RollAgrees (s.setWorker i w) :=
  roll_setWorker (n := s.evac.unaccounted) h (fun hw => ⟨hm ▸ hw, hu⟩) (by rw [hm])

/-- A record that was not UNACCOUNTED is replaced by another that is not. -/
theorem roll_unmarked {i : Nat} {w : Worker} (h : RollAgrees s) (ho : (s.worker i).muster ≠ .unaccounted)
    (hw : w.muster ≠ .unaccounted) : RollAgrees (s.setWorker i w) :=
  roll_setWorker (n := s.evac.unaccounted) h (fun hm => absurd hm hw) (by rw [if_neg ho, if_neg hw])

/-! ## Every record is written -/

/-- A change of every record that leaves mark and status keeps the roll. -/
theorem roll_update {f : Worker → Worker} (h : RollAgrees s) (hf : f Worker.zeroed = Worker.zeroed)
    (hm : ∀ w, (f w).muster = w.muster) (hs : ∀ w, (f w).status = w.status) :
    RollAgrees { s with workers := Table.update Worker.zeroed f s.workers } where
  workers := wf_update h.workers f
  count := h.count.trans (count_update (fun w : Worker => decide (w.muster = .unaccounted)) rfl f
    (fun w => by rw [hm])).symm
  size := h.size
  inUse i := by
    have hread : State.worker { s with workers := Table.update Worker.zeroed f s.workers } i = f (s.worker i) :=
      get_update h.workers hf i
    rw [hread, hm]
    unfold Worker.inUse
    rw [hs]
    exact h.inUse i

/-- The roll is rebuilt: it marks records in use alone (R177). -/
theorem roll_built (h : RollAgrees s) : RollAgrees (buildRoll s) where
  workers := wf_update h.workers _
  count := rfl
  size := le_rfl
  inUse i := by
    have hread : (buildRoll s).worker i = (s.worker i).enrolled := get_update (f := Worker.enrolled) h.workers rfl i
    rw [hread]
    intro hm
    simp only [Worker.enrolled, Worker.rollMark] at hm
    split at hm
    · next hu => exact hu.1
    · cases hm

/-! ## Punches and passages -/

theorem roll_musterPunch (n code : Nat) (h : RollAgrees s) : RollAgrees (musterPunch n code s).1 := by
  unfold musterPunch
  split
  · exact roll_pays h (offerEntry_pays _ _)
  · refine roll_pays ?_ (offerEntry_pays _ _)
    dsimp only
    split
    · next i _ hm =>
      have := roll_accounted (i := i) (w := { s.worker i with muster := .accounted }) h (fun e => by cases e)
      rwa [unaccountedAfter, if_pos hm] at this
    · exact h

theorem roll_evaluatePunch (n code : Nat) (key : HeadKey) (h : RollAgrees s) :
    RollAgrees (evaluatePunch n code key s) := by
  have stamped (i : Nat) : RollAgrees (stampPunch n i s) := roll_pays h (setWorker_pays rfl rfl)
  unfold evaluatePunch
  split
  · next p _ =>
    have hsent : RollAgrees (sendVerdict n .accept (displayCode p) (stampPunch n p.worker s)) :=
      roll_spared (stamped p.worker) (sendVerdict_spares (spares_refl _))
    dsimp only
    split
    · exact roll_pays hsent (commitPunch_pays ..)
    · exact { hsent with }
  · unfold refusePunch
    refine roll_spared ?_ (offerEntry_spares (setLane_spares_same rfl (sendVerdict_spares (spares_refl _))))
    split
    · split
      · exact stamped _
      · exact h
    · exact h
  · exact roll_spared h (sendVerdict_spares (spares_refl s))
  · exact roll_spared (roll_musterPunch n code h) (sendVerdict_spares (spares_refl _))

theorem roll_punchTaken (n code : Nat) (key : HeadKey) (h : RollAgrees s) : RollAgrees (punchTaken n code key s) := by
  unfold punchTaken
  split
  · exact roll_evaluatePunch n code key h
  · split
    · exact roll_evaluatePunch n code key h
    · exact roll_spared h (sendVerdict_spares (spares_refl s))
  · exact roll_spared h (sendVerdict_spares (spares_refl s))

theorem roll_doorOpened (n : Nat) (h : RollAgrees s) : RollAgrees (doorOpened n s) := by
  have opened : Spares s (openLane n s) := openLane_spares (spares_refl s)
  unfold doorOpened
  dsimp only
  split
  · split
    · exact roll_pays (roll_spared h opened) (commitPunch_pays ..)
    · exact roll_spared h opened
  · split
    · exact roll_spared h (offerEntry_spares (setConditions_spares opened))
    · exact roll_spared h opened
  · exact h

/-! ## Requests of the Worker Table -/

/-- A status byte that is in its set is not FREE (R45). -/
theorem statusOf_ne_free {b : Byte} {status : Status} (h : statusOf b = some status) : status ≠ .free := by
  rintro rfl
  unfold statusOf at h
  split at h <;> cases h

theorem roll_workerSet (index : Half) (status crew rateClass flags : Byte) (h : RollAgrees s) :
    RollAgrees (workerSet index status crew rateClass flags s).state := by
  refine KeptByRecords.refused h ?_
  split
  · exact h
  · next st hst =>
    refine KeptByRecords.refused h (KeptByRecords.accepted ?_)
    have hfree := statusOf_ne_free hst
    by_cases hu : (s.worker index.toNat).inUse = true
    · rw [if_pos hu]
      exact roll_sameMark h rfl (by simp [Worker.inUse, hfree])
    · rw [if_neg hu]
      exact roll_unmarked h (fun hm => hu (h.inUse _ hm)) (fun e => by cases e)

theorem roll_workerFree (index : Half) (h : RollAgrees s) : RollAgrees (workerFree index s).state := by
  unfold workerFree
  dsimp only
  refine KeptByRecords.refused h (KeptByRecords.refused h ?_)
  split
  · exact h
  · next hno =>
    have hm : (s.worker index.toNat).muster ≠ .unaccounted := fun hm => hno (.inr (.inr hm))
    exact KeptByRecords.refused h { roll_unmarked h hm (w := Worker.zeroed) (fun e => by cases e) with }

theorem overridden_muster (w : Worker) (p : Presence) : (w.overridden p).muster ≠ .unaccounted := by
  unfold Worker.overridden
  dsimp only
  split
  · intro e; cases e
  · next h => exact h

theorem roll_presenceSet (index : Half) (presence : Byte) (h : RollAgrees s) :
    RollAgrees (presenceSet index presence s).state := by
  refine KeptByRecords.refused h ?_
  split
  · exact h
  · next p _ =>
    refine KeptByRecords.refused h (KeptByRecords.accepted (roll_pays ?_ (offerEntry_pays _ _)))
    have hpays := setPresence_pays index.toNat p s
    have := roll_accounted (i := index.toNat) (roll_pays h hpays)
      (overridden_muster ((setPresence index.toNat p s).worker index.toNat) p)
    rwa [hpays.muster] at this

end Roll

/-- Every operation on the records keeps the roll. -/
theorem roll_kept : KeptByRecords (fun _ => True) RollAgrees where
  spared := roll_spared
  expiries h := roll_pays h (takeExpiries_pays _)
  reached i p h := roll_pays h (reachRecord_pays i p _)
  roll := roll_built
  cleared h := { roll_update (f := Worker.cleared) h rfl
    (fun w => by unfold Worker.cleared; split <;> rfl) (fun w => by unfold Worker.cleared; split <;> rfl) with }
  clockSet _ _ h := { h with }
  started _ _ h := { roll_update (f := Worker.started) h rfl (fun _ => rfl) (fun _ => rfl) with }
  cold _ := ⟨rfl, rfl, le_rfl, fun _ hm => by cases hm⟩
  punch := roll_punchTaken
  door _ := roll_doorOpened _
  workerSet := roll_workerSet
  workerFree := roll_workerFree
  presenceSet := roll_presenceSet
  badgeAdd _ _ h := KeptByRecords.refused h (KeptByRecords.refused h (KeptByRecords.refused h (KeptByRecords.refused h
    (KeptByRecords.refused h (KeptByRecords.accepted { h with })))))
  badgeRemove _ h := KeptByRecords.refused h (KeptByRecords.refused h (KeptByRecords.accepted { h with }))
  lanesMoved _ _ _ _ h := { h with }
  lanesWritten {s} first l _ h := by
    refine List.foldlRecOn _ (laneWritten s) (b := { s with laneTable := setRun LaneRecord.cold first l s.laneTable })
      { h with } fun u hu n _ => ?_
    unfold laneWritten
    split
    · exact { hu with }
    · exact roll_spared hu (disableLane_spares (spares_refl u))
    · exact hu

/-- Settles O56: the operations on the records keep the roll, and every step is made of them and of what spares the records. -/
theorem stepsKeepTheRoll : Obligations.StepsKeepTheRoll := by
  unfold Obligations.StepsKeepTheRoll
  intro s t
  exact roll_kept.step (fun _ _ => id) (fun _ _ => id) trivial

end Sys2Proof.Proofs
end

section
/-! SUPPORT. The worker records' part of `Consistent` (R35, R38, R39): what is true of them between the change of a presence and
the pairing that ends its attendance, and what pairings and closes leave of it. -/

namespace Sys2Proof.Proofs

open Machine Laws

/-- A record that the inside count counts (R38). -/
def countsInside (w : Worker) : Bool := w.inUse && decide (w.presence = .inside)

/-- How a record's write changes the number of INSIDE records in use. -/
theorem inside_setWorker {s : State} (hw : Table.wf Worker.zeroed s.workers = true) (i : Nat) (w : Worker) :
    (s.setWorker i w).insideRecords + (if countsInside (s.worker i) then 1 else 0) =
      s.insideRecords + if countsInside w then 1 else 0 :=
  count_set countsInside rfl hw i w

/-- The records agree with the inside count and the clock; the record that `leaving` names may still have an open attendance
although it is OUTSIDE, while an OUT is being committed (R100). -/
structure RecordsAgree (leaving : Option Nat) (s : State) : Prop where
  workers : Table.wf Worker.zeroed s.workers = true
  free : ∀ i, (s.worker i).inUse = false → s.worker i = Worker.zeroed
  inside : s.insideCount = s.insideRecords
  outside : ∀ i, leaving ≠ some i → (s.worker i).presence = .outside → (s.worker i).attendance = none
  unset : s.clock.valid = false → ∀ i, (s.worker i).attendance = none

section Records

variable {s t u : State} {i : Nat} {leaving : Option Nat}

theorem records_of_consistent (h : Consistent s) : RecordsAgree none s :=
  ⟨h.workers, h.free, h.inside, fun i _ => h.outside i, h.unset⟩

theorem records_leaving (h : RecordsAgree none s) (i : Nat) : RecordsAgree (some i) s :=
  { h with outside := fun j _ => h.outside j (by simp) }

/-- Once the leaving record has no open attendance, the records agree. -/
theorem records_left (h : RecordsAgree (some i) s) (ha : (s.worker i).attendance = none) : RecordsAgree none s where
  workers := h.workers
  free := h.free
  inside := h.inside
  outside j _ hj := by
    by_cases hji : j = i
    · exact hji ▸ ha
    · exact h.outside j (fun e => hji (Option.some.inj e).symm) hj
  unset := h.unset

/-- A record with an open attendance is in use. -/
theorem records_attendance (h : RecordsAgree leaving s) (ha : (s.worker i).attendance ≠ none) :
    (s.worker i).inUse = true := by
  cases hu : (s.worker i).inUse with
  | true => rfl
  | false => exact absurd (congrArg Worker.attendance (h.free i hu)) ha

/-- What the records speak of stands in all else that a state holds. -/
theorem records_same (h : RecordsAgree leaving s) (hw : t.workers = s.workers) (hi : t.insideCount = s.insideCount)
    (hv : t.clock.valid = s.clock.valid) : RecordsAgree leaving t := by
  have hr (j : Nat) : t.worker j = s.worker j := by unfold State.worker; rw [hw]
  refine ⟨hw ▸ h.workers, fun j => hr j ▸ h.free j, ?_, fun j => hr j ▸ h.outside j, fun hc j => ?_⟩
  · unfold State.insideRecords
    rw [hi, hw]
    exact h.inside
  · rw [hr]
    exact h.unset (hv ▸ hc) j

/-! ## One record is written -/

/-- A record is replaced by another, zeroed if it is FREE, and the inside count follows (R38). -/
theorem records_setWorker {n : Nat} {w : Worker} (h : RecordsAgree leaving s) (hf : w.inUse = false → w = Worker.zeroed)
    (hn : n + (if countsInside (s.worker i) then 1 else 0) = s.insideCount + if countsInside w then 1 else 0)
    (ho : leaving ≠ some i → w.presence = .outside → w.attendance = none)
    (hv : s.clock.valid = false → w.attendance = none) :
    RecordsAgree leaving { s.setWorker i w with insideCount := n } := by
  have hread (j : Nat) : State.worker { s.setWorker i w with insideCount := n } j = if j = i then w else s.worker j :=
    setWorker_read ..
  have hcount := inside_setWorker h.workers i w
  have hinside := h.inside
  refine ⟨wf_set h.workers i w, fun j => ?_, ?_, fun j => ?_, fun hc j => ?_⟩
  · rw [hread]
    split
    · exact hf
    · exact h.free j
  · show n = (s.setWorker i w).insideRecords
    omega
  · rw [hread]
    split
    · next e => subst e; exact ho
    · exact h.outside j
  · rw [hread]
    split
    · exact hv hc
    · exact h.unset hc j

/-- A record in use is replaced by one with its status and presence. -/
theorem records_setWorker_counted {w : Worker} (h : RecordsAgree leaving s) (hu : (s.worker i).inUse = true)
    (hs : w.status = (s.worker i).status) (hp : w.presence = (s.worker i).presence)
    (ho : leaving ≠ some i → w.presence = .outside → w.attendance = none)
    (hv : s.clock.valid = false → w.attendance = none) : RecordsAgree leaving (s.setWorker i w) := by
  have hw : w.inUse = (s.worker i).inUse := by unfold Worker.inUse; rw [hs]
  have hc : countsInside w = countsInside (s.worker i) := by unfold countsInside; rw [hw, hp]
  exact records_setWorker (n := s.insideCount) h (fun hf => by rw [hw, hu] at hf; cases hf) (by rw [hc]) ho hv

/-- And so is it by one that besides opens no attendance. -/
theorem records_setWorker_same {w : Worker} (h : RecordsAgree leaving s) (hu : (s.worker i).inUse = true)
    (hs : w.status = (s.worker i).status) (hp : w.presence = (s.worker i).presence)
    (ha : (s.worker i).attendance = none → w.attendance = none) : RecordsAgree leaving (s.setWorker i w) :=
  records_setWorker_counted h hu hs hp (fun hl ho => ha (h.outside i hl (hp ▸ ho))) fun hv => ha (h.unset hv i)

/-- The presence of a record in use is written (R38). -/
theorem records_setPresence {p : Presence} (h : RecordsAgree leaving s) (hu : (s.worker i).inUse = true)
    (ho : leaving ≠ some i → p = .outside → (s.worker i).attendance = none) :
    RecordsAgree leaving (setPresence i p s) := by
  have hu' : Worker.inUse { s.worker i with presence := p } = true := hu
  refine records_setWorker h (fun hf => by rw [hu'] at hf; cases hf) ?_ ho (fun hv => h.unset hv i)
  have hpos : countsInside (s.worker i) = true → 0 < s.insideCount := by
    intro hc
    have := inside_setWorker h.workers i Worker.zeroed
    rw [if_pos hc, if_neg (by decide)] at this
    rw [h.inside]
    omega
  simp only [countsInside, hu, hu', Bool.true_and, decide_eq_true_eq] at hpos ⊢
  unfold insideAfter
  by_cases hb : (s.worker i).presence = .inside <;> by_cases hp : p = .inside <;> simp [hb, hp]
  have := hpos hb
  omega

/-! ## Pairings and closes -/

/-- From `s` to `t` records are paired or closed: their presences stand, no attendance opens, and a zeroed record stands. -/
structure Settles (s t : State) : Prop where
  pays : Pays s t
  insideCount : t.insideCount = s.insideCount
  insideRecords : Table.wf Worker.zeroed s.workers = true → t.insideRecords = s.insideRecords
  presence : ∀ i, (t.worker i).presence = (s.worker i).presence
  attendance : ∀ i, (s.worker i).attendance = none → (t.worker i).attendance = none
  zeroed : ∀ i, s.worker i = Worker.zeroed → t.worker i = Worker.zeroed

theorem settles_refl (s : State) : Settles s s := ⟨.refl s, rfl, fun _ => rfl, fun _ => rfl, fun _ => id, fun _ => id⟩

theorem Settles.trans (h1 : Settles s t) (h2 : Settles t u) : Settles s u where
  pays := h1.pays.trans h2.pays
  insideCount := h2.insideCount.trans h1.insideCount
  insideRecords hw := (h2.insideRecords (h1.pays.canonical hw)).trans (h1.insideRecords hw)
  presence i := (h2.presence i).trans (h1.presence i)
  attendance i := h2.attendance i ∘ h1.attendance i
  zeroed i := h2.zeroed i ∘ h1.zeroed i

theorem Settles.records (hst : Settles s t) (h : RecordsAgree leaving s) : RecordsAgree leaving t where
  workers := hst.pays.canonical h.workers
  free i hi := by
    refine hst.zeroed i (h.free i ?_)
    unfold Worker.inUse at hi ⊢
    rwa [hst.pays.status] at hi
  inside := by rw [hst.insideCount, hst.insideRecords h.workers]; exact h.inside
  outside i hl hp := hst.attendance i (h.outside i hl (hst.presence i ▸ hp))
  unset hv i := hst.attendance i (h.unset (hst.pays.clock ▸ hv) i)

theorem offerEntry_settles (body : EntryBody) (s : State) : Settles s (offerEntry body s) where
  pays := offerEntry_pays body s
  insideCount := offerEntry_insideCount ..
  insideRecords _ := by unfold State.insideRecords; rw [offerEntry_workers]
  presence _ := by rw [offerEntry_worker]
  attendance _ := by rw [offerEntry_worker]; exact id
  zeroed _ := by rw [offerEntry_worker]; exact id

/-- A record is written with its status, mark and presence; no attendance opens, and the record was not zeroed. -/
theorem setWorker_settles {w : Worker} (hs : w.status = (s.worker i).status) (hm : w.muster = (s.worker i).muster)
    (hp : w.presence = (s.worker i).presence) (ha : (s.worker i).attendance = none → w.attendance = none)
    (hz : s.worker i ≠ Worker.zeroed) : Settles s (s.setWorker i w) where
  pays := setWorker_pays hs hm
  insideCount := rfl
  insideRecords hw := by
    have hc : countsInside w = countsInside (s.worker i) := by unfold countsInside Worker.inUse; rw [hs, hp]
    have := inside_setWorker hw i w
    rw [hc] at this
    omega
  presence j := by
    rw [setWorker_read]
    split
    · next e => rw [hp, e]
    · rfl
  attendance j := by
    rw [setWorker_read]
    split
    · next e => subst e; exact ha
    · exact id
  zeroed j hj := by
    rw [setWorker_read]
    split
    · next e => subst e; exact absurd hj hz
    · exact hj

theorem makePairing_settles (i : Nat) (kind : PairKind) (raw : Nat) (p : Presence) (s : State) :
    Settles s (makePairing i kind raw p s) := by
  unfold makePairing
  dsimp only
  split
  · exact settles_refl s
  · next a ha =>
    have hopen : (s.worker i).attendance ≠ none := by rw [ha]; simp
    refine Settles.trans ?_ (offerEntry_settles _ _)
    exact setWorker_settles rfl rfl rfl (fun hn => absurd hn hopen) fun hz => hopen (congrArg Worker.attendance hz)

/-- The close's own record is written. -/
theorem setClose_settles {c : CloseState}
    (h : Pays s { s with close := c }) : Settles s { s with close := c } :=
  ⟨h, rfl, fun _ => rfl, fun _ => rfl, fun _ => id, fun _ => id⟩

/-- A close that closes a record in use leaves its presence, and opens no attendance (R133). -/
theorem recordClose_settles (hu : (s.worker i).status ≠ .free) (p : Presence) : Settles s (recordClose i p s) := by
  unfold recordClose
  extract_lets splits s1 w s2
  have h1 : Settles s s1 := by
    unfold s1
    split
    · exact makePairing_settles _ _ _ _ _
    · exact settles_refl s
  have hz : s1.worker i ≠ Worker.zeroed := fun hz => hu ((h1.pays.status i).symm.trans (congrArg Worker.status hz))
  have h2 : Settles s1 s2 := setWorker_settles rfl rfl rfl id hz
  exact h1.trans (h2.trans (setClose_settles (closeCounts_pays _ _ _ _)))

theorem reachRecord_settles (i : Nat) (p : Presence) (s : State) : Settles s (reachRecord i p s) := by
  unfold reachRecord
  dsimp only
  split
  · exact settles_refl s
  next hu =>
  have hmark : Settles s (s.setWorker i { s.worker i with closeMark := s.close.gen }) :=
    setWorker_settles rfl rfl rfl id fun hz => hu (congrArg Worker.status hz)
  split
  · exact settles_refl s
  split
  · exact hmark
  split
  · exact hmark.trans (setClose_settles (closeCounts_pays _ _ _ _))
  · exact recordClose_settles hu p

theorem callPairing_settles (i : Nat) (kind : PairKind) (raw : Nat) (p : Presence) (s : State) :
    Settles s (callPairing i kind raw p s) := by
  unfold callPairing
  split
  · exact (reachRecord_settles i p s).trans (makePairing_settles _ _ _ _ _)
  · exact makePairing_settles _ _ _ _ _

/-- An expiry pairs an open attendance and writes presence UNKNOWN (R102). -/
theorem expire_records (i : Nat) (h : RecordsAgree none s) : RecordsAgree none (expire i s) := by
  unfold expire
  split
  · exact h
  · next a ha =>
    have hset := callPairing_settles i .autoClose a.deadline (s.worker i).presence s
    have hu : (s.worker i).inUse = true := records_attendance h (by rw [ha]; simp)
    refine records_setPresence (hset.records h) ?_ (fun _ e => by cases e)
    unfold Worker.inUse at hu ⊢
    rwa [hset.pays.status]

theorem takeExpiries_records (h : RecordsAgree none s) : RecordsAgree none (takeExpiries s) := by
  unfold takeExpiries
  split
  · exact List.foldlRecOn _ _ h fun _ hu i _ => expire_records i hu
  · exact h

/-! ## Commits (R97 to R100) -/

/-- The commit of an IN of a record in use; it opens an attendance only with a verdict time (R98, R99). -/
theorem commitIn_records (n : Nat) {p : ReleasedPunch} (free : Bool) (h : RecordsAgree none s)
    (hu : (s.worker p.worker).inUse = true) (hv : p.verdictTime.isSome = true → s.clock.valid = true) :
    RecordsAgree none (commitIn n p free s) := by
  have h1 : RecordsAgree none (setPresence p.worker .inside s) :=
    records_setPresence h hu (fun _ e => by cases e)
  have hu1 : ((setPresence p.worker .inside s).worker p.worker).inUse = true := by
    rw [setPresence_worker, if_pos rfl]
    exact hu
  unfold commitIn
  dsimp only
  split
  · exact (offerEntry_settles _ _).records h1
  · next t _ ht =>
    refine (offerEntry_settles _ _).records ?_
    refine records_setWorker_counted h1 hu1 ?_ ?_ (fun _ hp => ?_) (fun hc => ?_)
    · rfl
    · rfl
    · rw [setPresence_worker, if_pos rfl] at hp
      cases hp
    · have hvalid := hv (by rw [ht]; rfl)
      rw [setPresence_clock, hvalid] at hc
      cases hc
  · exact (offerEntry_settles _ _).records h1

/-- The commit of an OUT of a record in use: its attendance is paired in the same step (R100). -/
theorem commitOut_records (n : Nat) {p : ReleasedPunch} (free : Bool) (h : RecordsAgree none s)
    (hu : (s.worker p.worker).inUse = true) : RecordsAgree none (commitOut n p free s) := by
  have h1 : RecordsAgree (some p.worker) (setPresence p.worker .outside s) :=
    records_setPresence (records_leaving h _) hu (fun hne => absurd rfl hne)
  unfold commitOut
  extract_lets plain flags w s1
  have h2 : RecordsAgree (some p.worker) s1 := (offerEntry_settles _ _).records h1
  have hs1 : (s1.worker p.worker).attendance = (s.worker p.worker).attendance := by
    unfold s1
    rw [offerEntry_worker, setPresence_worker, if_pos rfl]
  split
  · exact records_left ((callPairing_settles _ _ _ _ _).records h2) (makePairing_attendance (by decide) _ _ _)
  · next hn => exact records_left h2 (hs1.trans (by simpa [w] using hn))

theorem commitPunch_records (n : Nat) {p : ReleasedPunch} (free : Bool) (h : RecordsAgree none s)
    (hu : (s.worker p.worker).inUse = true) (hv : p.verdictTime.isSome = true → s.clock.valid = true) :
    RecordsAgree none (commitPunch n p free s) := by
  unfold commitPunch
  split
  · exact commitIn_records n free h hu hv
  · exact commitOut_records n free h hu

/-! ## Every record is written -/

/-- A change of every record that keeps status and attendance and makes none OUTSIDE. -/
theorem records_update {f : Worker → Worker} {n : Nat} (h : RecordsAgree none s) (hf : f Worker.zeroed = Worker.zeroed)
    (hs : ∀ w, (f w).status = w.status) (ha : ∀ w, (f w).attendance = w.attendance)
    (hp : ∀ w, (f w).presence = .outside → w.presence = .outside)
    (hn : n = count countsInside (Table.update Worker.zeroed f s.workers)) :
    RecordsAgree none { s with workers := Table.update Worker.zeroed f s.workers, insideCount := n } := by
  have hread (j : Nat) : State.worker { s with workers := Table.update Worker.zeroed f s.workers, insideCount := n } j
      = f (s.worker j) := get_update h.workers hf j
  refine ⟨wf_update h.workers f, fun j hj => ?_, hn, fun j hl hj => ?_, fun hv j => ?_⟩ <;> rw [hread] at *
  · have hu : (s.worker j).inUse = false := by
      unfold Worker.inUse at hj ⊢
      rwa [hs] at hj
    rw [h.free j hu, hf]
  · rw [ha]
    exact h.outside j hl (hp _ hj)
  · rw [ha]
    exact h.unset hv j

/-- So does one that keeps every presence, and the inside count stands. -/
theorem records_update_same {f : Worker → Worker} (h : RecordsAgree none s) (hf : f Worker.zeroed = Worker.zeroed)
    (hs : ∀ w, (f w).status = w.status) (ha : ∀ w, (f w).attendance = w.attendance)
    (hp : ∀ w, (f w).presence = w.presence) :
    RecordsAgree none { s with workers := Table.update Worker.zeroed f s.workers } := by
  refine records_update (n := s.insideCount) h hf hs ha (fun w hw => hp w ▸ hw) (h.inside.trans ?_)
  exact (count_update countsInside rfl f fun w => by unfold countsInside Worker.inUse; rw [hs, hp]).symm

end Records

end Sys2Proof.Proofs
end

section
/-! SUPPORT. The badge map's lookup, the lanes that hold a worker, and the punches that an evaluation accepts (R47, R53, R87,
R93). -/

namespace Sys2Proof.Proofs

open Machine Laws

section Lookup

variable {s : State}

theorem lookup_eq_none {code : Nat} : s.lookup code = none ↔ ∀ e ∈ s.badges, e.1 ≠ code := by
  unfold State.lookup
  cases hf : s.badges.find? fun e => decide (e.1 = code) with
  | none => simpa using hf
  | some e =>
    exact iff_of_false (by simp) fun h => h e (List.mem_of_find?_eq_some hf) (by simpa using List.find?_some hf)

/-- A code that the map finds stands in it with its index. -/
theorem lookup_mem {code i : Nat} (h : s.lookup code = some i) : ∃ e ∈ s.badges, e.2 = i := by
  unfold State.lookup at h
  split at h
  · next e he => exact ⟨e, List.mem_of_find?_eq_some he, Option.some.inj h⟩
  · cases h

theorem heldByLane_iff {i : Nat} : s.heldByLane i = true ↔
    ∃ n p, n < 16 ∧ (s.lane n).state = .released ∧ (s.lane n).punch = some p ∧ p.worker = i := by
  have hlane (n : Nat) : (match (s.lane n).punch with
      | some p => decide ((s.lane n).state = .released) && decide (p.worker = i)
      | none => false) = true ↔
        ∃ p, (s.lane n).state = .released ∧ (s.lane n).punch = some p ∧ p.worker = i := by
    cases (s.lane n).punch <;> simp
  unfold State.heldByLane
  rw [List.any_eq_true]
  constructor
  · rintro ⟨n, hn, h⟩
    obtain ⟨p, hp⟩ := (hlane n).1 h
    exact ⟨n, p, List.mem_range.1 hn, hp⟩
  · rintro ⟨n, p, hn, hp⟩
    exact ⟨n, List.mem_range.2 hn, (hlane n).2 ⟨p, hp⟩⟩

theorem overridden_status (w : Worker) (p : Presence) : (w.overridden p).status = w.status := rfl

theorem overridden_presence (w : Worker) (p : Presence) : (w.overridden p).presence = w.presence := rfl

theorem overridden_attendance {w : Worker} {p : Presence} (h : w.attendance = none) :
    (w.overridden p).attendance = none := by
  unfold Worker.overridden
  dsimp only
  split
  · rfl
  · exact h

/-- The state in which PRESENCE SET offers its entry: presence and inside count written, an attendance voided by OUTSIDE, an
unaccounted worker accounted (R48, R177). -/
def overrideRecord (i : Nat) (p : Presence) (s : State) : State :=
  { s with
    workers :=
      Table.set Worker.zeroed (Table.set Worker.zeroed s.workers i { s.worker i with presence := p }) i
        (Worker.overridden { s.worker i with presence := p } p)
    insideCount := insideAfter s.insideCount (s.worker i).presence p
    evac := { s.evac with unaccounted := unaccountedAfter s.evac.unaccounted (s.worker i).muster } }

theorem overrideRecord_worker (i : Nat) (p : Presence) (j : Nat) : (overrideRecord i p s).worker j =
    if j = i then
      { s.worker i with
        presence := p
        attendance := if p = .outside then none else (s.worker i).attendance
        muster := if (s.worker i).muster = .unaccounted then .accounted else (s.worker i).muster }
    else s.worker j := by
  have hread : (overrideRecord i p s).worker j =
      if j = i then Worker.overridden { s.worker i with presence := p } p
      else (s.setWorker i { s.worker i with presence := p }).worker j := get_set
  rw [hread, setWorker_read]
  split <;> rfl

section PresenceSet

variable {index : Half} {presence : Byte} {p : Presence}

theorem presenceSet_badIndex (hi : 4096 ≤ index.toNat) : presenceSet index presence s = answer .badIndex s := if_pos hi

theorem presenceSet_badValue (hi : index.toNat < 4096) (hp : presenceOf presence = none) :
    presenceSet index presence s = answer .badValue s := by
  unfold presenceSet
  simp only [if_neg (not_le.2 hi), hp]

theorem presenceSet_free (hi : index.toNat < 4096) (hp : presenceOf presence = some p)
    (hu : (s.worker index.toNat).inUse = false) : presenceSet index presence s = answer .notPermitted s := by
  unfold presenceSet
  simp only [if_neg (not_le.2 hi), hp, hu]
  rfl

theorem presenceSet_taken (hi : index.toNat < 4096) (hp : presenceOf presence = some p)
    (hu : (s.worker index.toNat).inUse = true) :
    presenceSet index presence s = answer .ok
      (offerEntry
        (.override_ index.toNat (s.worker index.toNat).presence p
          (decide (p = .outside) && (s.worker index.toNat).attendance.isSome))
        (overrideRecord index.toNat p s)) := by
  have hw : (setPresence index.toNat p s).worker index.toNat = { s.worker index.toNat with presence := p } := by
    rw [setPresence_worker, if_pos rfl]
  unfold presenceSet
  simp only [if_neg (not_le.2 hi), hp, hu, hw]
  simp only [overrideRecord, setPresence, State.setWorker, Bool.not_true, Bool.false_eq_true, if_false]

/-- PRESENCE SET leaves the state, or writes a record in use and offers an entry (R48). -/
theorem presenceSet_cases (index : Half) (presence : Byte) (s : State) : (presenceSet index presence s).state = s
    ∨ ∃ p body, (s.worker index.toNat).inUse = true
        ∧ (presenceSet index presence s).state = offerEntry body (overrideRecord index.toNat p s) := by
  rcases lt_or_ge index.toNat 4096 with hi | hi
  · cases hp : presenceOf presence with
    | none => exact .inl (by rw [presenceSet_badValue hi hp]; rfl)
    | some p =>
      cases hu : (s.worker index.toNat).inUse with
      | true => exact .inr ⟨p, _, rfl, by rw [presenceSet_taken hi hp hu]; rfl⟩
      | false => exact .inl (by rw [presenceSet_free hi hp hu]; rfl)
  · exact .inl (by rw [presenceSet_badIndex hi]; rfl)

end PresenceSet

theorem now_isSome (h : s.now.isSome = true) : s.clock.valid = true := by
  unfold State.now at h
  split at h
  · assumption
  · cases h

/-- An accepted IN names the worker that is judged and carries the present time as its verdict time. -/
theorem judgeIn_accept {lane code i : Nat} {p : ReleasedPunch} (h : s.judgeIn lane code i = .accept p) :
    p.worker = i ∧ p.verdictTime = s.now := by
  unfold State.judgeIn at h
  dsimp only at h
  split at h
  · cases h
  split at h
  · cases h
  split at h
  · cases h
  split at h
  · cases h
  split at h
  · next hn => cases h; exact ⟨rfl, hn.symm⟩
  · next t hn =>
    split at h
    · cases h; exact ⟨rfl, hn.symm⟩
    · split at h
      · cases h
      · cases h; exact ⟨rfl, hn.symm⟩

/-- An accepted punch names the worker that the map finds and carries the present time as its verdict time (R53, R93). -/
theorem judge_accept {lane code : Nat} {key : HeadKey} {p : ReleasedPunch} (h : s.judge lane code key = .accept p) :
    s.lookup code = some p.worker ∧ p.verdictTime = s.now := by
  unfold State.judge at h
  split at h
  · cases h
  split at h
  · cases h
  split at h
  · cases h
  split at h
  · cases h
  next i hi =>
  dsimp only at h
  split at h
  · cases h
  split at h
  · cases h; exact ⟨hi, rfl⟩
  · obtain ⟨rfl, ht⟩ := judgeIn_accept h
    exact ⟨hi, ht⟩

end Lookup

end Sys2Proof.Proofs
end

section
/-! PROOF. The worker records, the inside count, the badge map and the released punches agree after every step (R35, R38, R39,
R47, R50, R53, R93). -/

namespace Sys2Proof.Proofs

open Machine Laws

section Consistency

variable {s t : State}

/-! ## From the records to the whole -/

/-- The records agree after an operation that frees none, leaves the badge map, puts no punch into a lane and does not unset
the clock. -/
theorem consistent_of_records (h : Consistent s) (hr : RecordsAgree none t)
    (hu : ∀ i, (s.worker i).inUse = true → (t.worker i).inUse = true) (hb : t.badges = s.badges)
    (hl : ∀ n, n < 16 → KeepsPunch (s.lane n) (t.lane n)) (hv : s.clock.valid = true → t.clock.valid = true) :
    Consistent t where
  workers := hr.workers
  free := hr.free
  inside := hr.inside
  outside i := hr.outside i (by simp)
  unset := hr.unset
  codes := hb ▸ h.codes
  named e he := hu _ (h.named e (hb ▸ he))
  punches n p hn hp := by
    obtain ⟨hp, hrel⟩ := hl n hn p hp
    obtain ⟨hs, hw, ht⟩ := h.punches n p hn hp
    exact ⟨hrel hs, hu _ hw, hv ∘ ht⟩

theorem consistent_spared (h : Consistent s) (hst : Spares s t) : Consistent t :=
  consistent_of_records h (records_same (records_of_consistent h) hst.workers hst.insideCount hst.valid)
    (fun i hi => hst.worker i ▸ hi) hst.badges hst.lanes (fun hv => hst.valid ▸ hv)

theorem consistent_pays (h : Consistent s) (hst : Pays s t) (hr : RecordsAgree none t) : Consistent t := by
  refine consistent_of_records h hr (fun i hi => ?_) hst.badges (fun n _ => ?_) (fun hv => hst.clock ▸ hv)
  · unfold Worker.inUse at hi ⊢
    rwa [hst.status]
  · rw [hst.lane]
    exact keepsPunch_same rfl rfl

/-- One record is written, and stays in use if it was. -/
theorem consistent_setWorker {i n : Nat} {w : Worker} {e : Evac} (h : Consistent s)
    (hr : RecordsAgree none { s.setWorker i w with insideCount := n }) (hu : w.inUse = true) :
    Consistent { s.setWorker i w with insideCount := n, evac := e } := by
  refine consistent_of_records h (records_same hr rfl rfl rfl) (fun j hj => ?_) rfl (fun _ _ => keepsPunch_same rfl rfl)
    (fun hv => hv)
  have hread : State.worker { s.setWorker i w with insideCount := n, evac := e } j = if j = i then w else s.worker j :=
    setWorker_read ..
  rw [hread]
  split
  · exact hu
  · exact hj

/-- A worker that the map finds is in use (R50). -/
theorem consistent_lookup {code i : Nat} (h : Consistent s) (hi : s.lookup code = some i) :
    (s.worker i).inUse = true := by
  obtain ⟨e, he, rfl⟩ := lookup_mem hi
  exact h.named e he

/-! ## Punches and passages -/

theorem consistent_stampPunch {n i : Nat} (h : Consistent s) (hu : (s.worker i).inUse = true) :
    Consistent (stampPunch n i s) :=
  consistent_setWorker h (records_setWorker_same (records_of_consistent h) hu rfl rfl id) hu

theorem consistent_commitPunch (n : Nat) {p : ReleasedPunch} (free : Bool) (h : Consistent s)
    (hu : (s.worker p.worker).inUse = true) (hv : p.verdictTime.isSome = true → s.clock.valid = true) :
    Consistent (commitPunch n p free s) :=
  consistent_pays h (commitPunch_pays ..) (commitPunch_records n free (records_of_consistent h) hu hv)

/-- A lane is released with a punch that names a record in use (R93, R94). -/
theorem consistent_releaseLane (n : Nat) {p : ReleasedPunch} (h : Consistent s)
    (hu : (s.worker p.worker).inUse = true) (hv : p.verdictTime.isSome = true → s.clock.valid = true) :
    Consistent (releaseLane n (some p) s) :=
  { h with
    punches := fun m q hm hq => by
      unfold releaseLane at hq ⊢
      rw [setLane_read] at hq ⊢
      split at hq
      · cases hq
        rw [if_pos ‹_›]
        exact ⟨rfl, hu, hv⟩
      · rw [if_neg ‹_›]
        exact h.punches m q hm hq }

theorem consistent_refusePunch (n code : Nat) (key : HeadKey) (r : Reason) (h : Consistent s) :
    Consistent (refusePunch n code key r s) := by
  unfold refusePunch
  refine consistent_spared ?_ (offerEntry_spares (setLane_spares_same rfl (sendVerdict_spares (spares_refl _))))
  split
  · next i hi =>
    split
    · refine consistent_stampPunch h ?_
      unfold State.found at hi
      split at hi
      · cases hi
      · exact consistent_lookup h hi
    · exact h
  · exact h

theorem consistent_musterPunch (n code : Nat) (h : Consistent s) : Consistent (musterPunch n code s).1 := by
  unfold musterPunch
  split
  · exact consistent_spared h (offerEntry_spares (spares_refl s))
  · next i hi =>
    refine consistent_spared ?_ (offerEntry_spares (spares_refl _))
    split
    · have hu := consistent_lookup h hi
      exact consistent_setWorker h (records_setWorker_same (records_of_consistent h) hu rfl rfl id) hu
    · exact h

theorem consistent_evaluatePunch (n code : Nat) (key : HeadKey) (h : Consistent s) :
    Consistent (evaluatePunch n code key s) := by
  unfold evaluatePunch
  split
  · next p hp =>
    obtain ⟨hfound, ht⟩ := judge_accept hp
    have hu := consistent_lookup h hfound
    have hsent : Consistent (sendVerdict n .accept (displayCode p) (stampPunch n p.worker s)) :=
      consistent_spared (consistent_stampPunch h hu) (sendVerdict_spares (spares_refl _))
    have hv : p.verdictTime.isSome = true → s.clock.valid = true := fun hs => now_isSome (ht ▸ hs)
    have hu1 : ((sendVerdict n .accept (displayCode p) (stampPunch n p.worker s)).worker p.worker).inUse = true := by
      unfold sendVerdict stampPunch
      rw [setLane_worker_read, setWorker_same]
      exact hu
    dsimp only
    split
    · exact consistent_commitPunch n true hsent hu1 hv
    · exact consistent_releaseLane n hsent hu1 hv
  · exact consistent_refusePunch n code key _ h
  · exact consistent_spared h (sendVerdict_spares (spares_refl s))
  · exact consistent_spared (consistent_musterPunch n code h) (sendVerdict_spares (spares_refl _))

theorem consistent_punchTaken (n code : Nat) (key : HeadKey) (h : Consistent s) :
    Consistent (punchTaken n code key s) := by
  unfold punchTaken
  split
  · exact consistent_evaluatePunch n code key h
  · split
    · exact consistent_evaluatePunch n code key h
    · exact consistent_spared h (sendVerdict_spares (spares_refl s))
  · exact consistent_spared h (sendVerdict_spares (spares_refl s))

/-- The punch that a released lane holds is committed as the lane opens (R68, R97). -/
theorem consistent_doorOpened {n : Nat} (hn : n < 16) (h : Consistent s) : Consistent (doorOpened n s) := by
  have hopen : Spares s (openLane n s) := openLane_spares (spares_refl s)
  unfold doorOpened
  dsimp only
  split
  · split
    · next p hp =>
      obtain ⟨-, hu, hv⟩ := h.punches n p hn hp
      exact consistent_commitPunch n false (consistent_spared h hopen) hu hv
    · exact consistent_spared h hopen
  · split
    · exact consistent_spared h (offerEntry_spares (setConditions_spares hopen))
    · exact consistent_spared h hopen
  · exact h

/-! ## Requests of the Worker Table and the Badge Map -/

theorem consistent_workerSet (index : Half) (status crew rateClass flags : Byte) (h : Consistent s) :
    Consistent (workerSet index status crew rateClass flags s).state := by
  refine KeptByRecords.refused h ?_
  split
  · exact h
  · next st hst =>
    refine KeptByRecords.refused h (KeptByRecords.accepted ?_)
    have hfree := statusOf_ne_free hst
    by_cases hu : (s.worker index.toNat).inUse = true
    · rw [if_pos hu]
      refine consistent_setWorker h (records_setWorker (n := s.insideCount) (records_of_consistent h) ?_ ?_
        (fun _ => h.outside _) (fun hv => h.unset hv _)) ?_
      · simp [Worker.inUse, hfree]
      · simp only [countsInside, hu]
        simp [Worker.inUse, hfree]
      · simp [Worker.inUse, hfree]
    · rw [if_neg hu]
      have hz := h.free index.toNat (by simpa using hu)
      refine consistent_setWorker h (records_setWorker (n := s.insideCount) (records_of_consistent h) ?_ ?_
        (fun _ _ => rfl) (fun _ => rfl)) ?_
      · simp [Worker.inUse, hfree]
      · simp [hz, countsInside, Worker.zeroed]
      · simp [Worker.inUse, hfree]

theorem consistent_workerFree (index : Half) (h : Consistent s) : Consistent (workerFree index s).state := by
  unfold workerFree
  dsimp only
  refine KeptByRecords.refused h (KeptByRecords.refused h ?_)
  split
  · exact h
  next hno =>
  split
  · exact h
  next hheld =>
  have hr := records_setWorker (i := index.toNat) (n := s.insideCount) (w := Worker.zeroed) (records_of_consistent h)
    (fun _ => rfl) (by simp [countsInside, (not_or.1 hno).1, Worker.zeroed]) (fun _ _ => rfl) (fun _ => rfl)
  have other (j : Nat) (hj : j ≠ index.toNat) : (s.setWorker index.toNat Worker.zeroed).worker j = s.worker j :=
    setWorker_ne _ _ _ _ hj
  exact
    { workers := hr.workers
      free := hr.free
      inside := hr.inside
      outside := fun i => hr.outside i (by simp)
      unset := hr.unset
      codes := h.codes.filter _
      named := fun e he => by
        obtain ⟨he, hne⟩ := List.mem_filter.1 he
        exact (congrArg Worker.inUse (other _ (by simpa using hne))).trans (h.named e he)
      punches := fun n p hn hp => by
        obtain ⟨hs, hw, hv⟩ := h.punches n p hn hp
        have hne : p.worker ≠ index.toNat := fun e => hheld (heldByLane_iff.2 ⟨n, p, hn, hs, hp, e⟩)
        exact ⟨hs, (congrArg Worker.inUse (other _ hne)).trans hw, hv⟩ }

/-- A record in use takes a presence by PRESENCE SET; on the way an OUTSIDE record may still have its attendance (R48). -/
theorem consistent_overrideRecord {i : Nat} (p : Presence) (h : Consistent s) (hu : (s.worker i).inUse = true) :
    Consistent (overrideRecord i p s) := by
  have written {leaving : Option Nat} (hr : RecordsAgree leaving s)
      (ho : leaving ≠ some i → p = .outside → (s.worker i).attendance = none) :
      RecordsAgree leaving (overrideRecord i p s) := by
    have hw : (setPresence i p s).worker i = { s.worker i with presence := p } := by
      rw [setPresence_worker, if_pos rfl]
    have hwrite := records_setWorker_same (records_setPresence hr hu ho) (by rw [hw]; exact hu)
      (overridden_status _ p) (overridden_presence _ p) (overridden_attendance (p := p))
    rw [hw] at hwrite
    exact records_same hwrite rfl rfl rfl
  have hr : RecordsAgree none (overrideRecord i p s) := by
    by_cases hp : p = .outside
    · refine records_left (written (records_leaving (records_of_consistent h) i) fun hne => absurd rfl hne) ?_
      rw [overrideRecord_worker, if_pos rfl, if_pos hp]
    · exact written (records_of_consistent h) fun _ e => absurd e hp
  have hworker (j : Nat) (hj : (s.worker j).inUse = true) : ((overrideRecord i p s).worker j).inUse = true := by
    rw [overrideRecord_worker]
    split
    · exact hu
    · exact hj
  exact consistent_of_records h hr hworker rfl (fun _ _ => keepsPunch_same rfl rfl) (fun hv => hv)

theorem consistent_presenceSet (index : Half) (presence : Byte) (h : Consistent s) :
    Consistent (presenceSet index presence s).state := by
  rcases presenceSet_cases index presence s with e | ⟨p, _, hu, e⟩ <;> rw [e]
  · exact h
  · exact consistent_spared (consistent_overrideRecord p h hu) (offerEntry_spares (spares_refl _))

theorem consistent_badgeAdd (code : Word) (index : Half) (h : Consistent s) :
    Consistent (badgeAdd code index s).state := by
  unfold badgeAdd
  refine KeptByRecords.refused h (KeptByRecords.refused h ?_)
  split
  · exact h
  next hfree =>
  have hu : (s.worker index.toNat).inUse = true := by simpa using hfree
  split
  · exact h
  next hfound =>
  have hnone : ∀ e ∈ s.badges, e.1 ≠ code.toNat := lookup_eq_none.1 (by simpa using hfound)
  refine KeptByRecords.refused h (KeptByRecords.accepted ?_)
  exact
    { h with
      codes := insertBadge_rising _ _ _ h.codes hnone
      named := fun e he => by
        rcases mem_insertBadge.1 he with rfl | he
        · exact hu
        · exact h.named e he }

theorem consistent_badgeRemove (code : Word) (h : Consistent s) : Consistent (badgeRemove code s).state :=
  KeptByRecords.refused h (KeptByRecords.refused h (KeptByRecords.accepted
    { h with
      codes := h.codes.filter _
      named := fun e he => h.named e (List.mem_of_mem_filter he) }))

/-! ## Every record, every lane -/

/-- A change of every record that keeps its status, the badge map and the lanes. -/
theorem consistent_update {f : Worker → Worker} (h : Consistent s) (hf : f Worker.zeroed = Worker.zeroed)
    (hs : ∀ w, (f w).status = w.status) (hr : RecordsAgree none t)
    (hw : t.workers = Table.update Worker.zeroed f s.workers) (hb : t.badges = s.badges)
    (hl : ∀ n, n < 16 → KeepsPunch (s.lane n) (t.lane n)) (hv : t.clock.valid = s.clock.valid) : Consistent t := by
  refine consistent_of_records h hr (fun i hi => ?_) hb hl (fun e => hv ▸ e)
  have hread : t.worker i = f (s.worker i) := by
    unfold State.worker
    rw [hw]
    exact get_update h.workers hf i
  unfold Worker.inUse at hi ⊢
  rwa [hread, hs]

theorem consistent_buildRoll (h : Consistent s) : Consistent (buildRoll s) := by
  have hr := records_update_same (f := Worker.enrolled) (records_of_consistent h) rfl (fun _ => rfl) (fun _ => rfl)
    (fun _ => rfl)
  exact consistent_update h (f := Worker.enrolled) rfl (fun _ => rfl) (records_same hr rfl rfl rfl) rfl rfl
    (fun _ _ => keepsPunch_same rfl rfl) rfl

/-- After the clear no record is INSIDE, and the inside count is 0 (R181 step 3). -/
theorem consistent_cleared (h : Consistent s) :
    Consistent { s with workers := Table.update Worker.zeroed Worker.cleared s.workers, insideCount := 0 } := by
  have hcases (w : Worker) : w.cleared = { w with presence := .unknown } ∨ w.cleared = w ∧ countsInside w = false := by
    unfold Worker.cleared
    split
    · exact .inl rfl
    · next hno => exact .inr ⟨rfl, by simpa [countsInside] using hno⟩
  have hs (w : Worker) : w.cleared.status = w.status := by rcases hcases w with e | ⟨e, -⟩ <;> rw [e]
  have ha (w : Worker) : w.cleared.attendance = w.attendance := by rcases hcases w with e | ⟨e, -⟩ <;> rw [e]
  have hp (w : Worker) (ho : w.cleared.presence = .outside) : w.presence = .outside := by
    rcases hcases w with e | ⟨e, -⟩ <;> rw [e] at ho
    · cases ho
    · exact ho
  have hnone (w : Worker) : countsInside w.cleared = false := by
    rcases hcases w with e | ⟨e, hc⟩ <;> rw [e]
    · simp [countsInside]
    · exact hc
  have hr := records_update (f := Worker.cleared) (n := 0) (records_of_consistent h) rfl hs ha hp
    (count_update_zero countsInside Worker.cleared hnone).symm
  exact consistent_update h (f := Worker.cleared) rfl hs hr rfl rfl (fun _ _ => keepsPunch_same rfl rfl) rfl

/-- A start drops the last punches and every released punch (R42, R81). -/
theorem consistent_startValues (k : StartKind) (strap : BitVec 5) (h : Consistent s) :
    Consistent (Machine.startValues k strap s) := by
  have hr := records_update_same (f := Worker.started) (records_of_consistent h) rfl (fun _ => rfl) (fun _ => rfl)
    (fun _ => rfl)
  refine consistent_update h (f := Worker.started) rfl (fun _ => rfl) (records_same hr rfl rfl rfl) rfl rfl
    (fun n hn => keepsPunch_none ?_) rfl
  have hread : (Machine.startValues k strap s).lane n = _ := startedLanes_read s hn
  rw [hread]
  split <;> rfl

theorem consistent_coldDomain (s : State) : Consistent (coldDomain s) where
  workers := rfl
  free _ _ := rfl
  inside := rfl
  outside _ _ := rfl
  unset _ _ := rfl
  codes := .nil
  named _ he := by cases he
  punches _ _ _ hp := by cases hp

theorem consistent_lanesMoved (f : Lane → Lane) (hf : f Lane.cold = Lane.cold)
    (hk : ∀ l, (f l).punch = l.punch ∧ (f l).state = l.state) (hl : LanesFit s) (h : Consistent s) :
    Consistent { s with lanes := Table.update Lane.cold f s.lanes } := by
  refine consistent_of_records h (records_same (records_of_consistent h) rfl rfl rfl) (fun _ hi => hi) rfl
    (fun n _ => ?_) (fun hv => hv)
  have hread : State.lane { s with lanes := Table.update Lane.cold f s.lanes } n = f (s.lane n) :=
    get_update hl.canonical hf n
  rw [hread]
  exact keepsPunch_same (hk _).1 (hk _).2

/-- A lane that is not enabled is DISABLED and holds no punch (R59). -/
theorem disabled_punch (hl : LanesFit s) {n : Nat} (hn : n < 16) (he : (s.laneRecord n).enabled = false) :
    (s.lane n).punch = none := by
  have hfits := hl.fits n hn
  have hd := hfits.disabled.2 he
  cases hp : (s.lane n).punch with
  | none => rfl
  | some p =>
    have := hfits.punch (by rw [hp]; rfl)
    rw [hd] at this
    cases this

end Consistency

/-- Every operation on the records keeps them in agreement. -/
theorem consistent_kept : KeptByRecords LanesFit Consistent where
  spared := consistent_spared
  expiries h := consistent_pays h (takeExpiries_pays _) (takeExpiries_records (records_of_consistent h))
  reached i p h :=
    consistent_pays h (reachRecord_pays i p _) ((reachRecord_settles i p _).records (records_of_consistent h))
  roll := consistent_buildRoll
  cleared := consistent_cleared
  clockSet c hc h :=
    { h with
      unset := fun hv => absurd (hc.symm.trans hv) (by simp)
      punches := fun n p hn hp => by
        obtain ⟨hs, hu, -⟩ := h.punches n p hn hp
        exact ⟨hs, hu, fun _ => hc⟩ }
  started := consistent_startValues
  cold := consistent_coldDomain
  punch := consistent_punchTaken
  door := consistent_doorOpened
  workerSet := consistent_workerSet
  workerFree := consistent_workerFree
  presenceSet := consistent_presenceSet
  badgeAdd := consistent_badgeAdd
  badgeRemove := consistent_badgeRemove
  lanesMoved := consistent_lanesMoved
  lanesWritten _ _ hl h := consistent_spared h (writeLanes_spares fun _ => disabled_punch hl)

/-- Settles O55: the operations on the records keep them in agreement, and every step is made of them and of what spares the
records. -/
theorem stepsKeepConsistency : Obligations.StepsKeepConsistency := by
  unfold Obligations.StepsKeepConsistency
  intro s t h hl
  exact consistent_kept.step (fun _ _ hu => { hu with }) (fun _ _ hu => { hu with }) hl h

end Sys2Proof.Proofs
end

section
/-! PROOF. The Badge Map's requests (R50 to R54). -/

namespace Sys2Proof.Proofs

open Machine Laws

/-! ## Runs of records (R203) -/

theorem badRun_of_outside {first : Half} {count : Byte} {entries : Nat}
    (h : 15 < count.toNat ∨ entries < first.toNat + count.toNat + 1) : Machine.badRun first count entries = true := by
  simpa [Machine.badRun] using h

theorem badRun_of_inside {first : Half} {count : Byte} {entries : Nat} (hc : count.toNat ≤ 15)
    (hf : first.toNat + count.toNat + 1 ≤ entries) : Machine.badRun first count entries = false := by
  simp only [Machine.badRun, Bool.or_eq_false_iff, decide_eq_false_iff_not]
  omega

/-! ## The lookup (R53) -/

section Badges

variable {s u : State} {tag : Byte} {code : Word} {index : Half}

theorem lookup_eq (s : State) (c : Nat) : s.lookup c = (s.badges.find? fun e => decide (e.1 = c)).map Prod.snd := by
  unfold State.lookup
  cases s.badges.find? fun e => decide (e.1 = c) <;> rfl

/-- A code that is not in the map, once added, finds its index, and every other code what it found (R51). -/
theorem lookup_insertBadge {c i : Nat} (hu : u.badges = insertBadge c i s.badges) (h : s.lookup c = none) :
    u.lookup c = some i ∧ ∀ d, d ≠ c → u.lookup d = s.lookup d := by
  have hfind : s.badges.find? (fun e => decide (e.1 = c)) = none := by
    rw [lookup_eq] at h
    exact Option.map_eq_none_iff.1 h
  refine ⟨?_, fun d hd => ?_⟩
  · rw [lookup_eq, hu, find_insertBadge _ _ _ hfind]
    rfl
  · rw [lookup_eq, lookup_eq, hu, find_insertBadge_ne _ _ _ _ hd]

/-- A code that is removed is no longer found, and every other code finds what it found (R52). -/
theorem lookup_removeBadge {c : Nat} (hu : u.badges = s.badges.filter fun e => decide (e.1 ≠ c)) :
    u.lookup c = none ∧ ∀ d, d ≠ c → u.lookup d = s.lookup d := by
  refine ⟨lookup_eq_none.2 fun e he => ?_, fun d hd => ?_⟩
  · rw [hu] at he
    simpa using (List.mem_filter.1 he).2
  · rw [lookup_eq, lookup_eq, hu, List.find?_filter]
    congr 2
    funext e
    by_cases he : e.1 = d <;> simp [he, hd]

/-! ## BADGE ADD (R51) -/

theorem badgeAdd_badCode (h : code = 0#32 ∨ code = 4294967295#32) : badgeAdd code index s = answer .badValue s :=
  if_pos (badCode_true h)

theorem badgeAdd_goodCode (h0 : code ≠ 0#32) (h1 : code ≠ 4294967295#32) : badgeAdd code index s =
    if Config.workerCount ≤ index.toNat then answer .badIndex s
    else if !(s.worker index.toNat).inUse then answer .notPermitted s
    else if (s.lookup code.toNat).isSome then answer .duplicate s
    else if Config.badgeCap ≤ s.badges.length then answer .full s
    else answer .ok { s with badges := insertBadge code.toNat index.toNat s.badges } :=
  if_neg (by simp [badCode_false h0 h1])

/-- BADGE ADD is answered as its block answers. -/
theorem exec_badgeAdd {c : ReplyCode} (h : Ready (.badgeAdd tag code index) s)
    (hact : badgeAdd code index s.taken = answer c u) :
    exec (.badgeAdd tag code index) s = .next (u.reply 36#8 tag c []) :=
  congrArg Host.Outcome.next (request_ready h rfl hact)

/-! ## BADGE REMOVE and BADGE FIND (R52, R54) -/

theorem badgeRemove_badCode (h : code = 0#32 ∨ code = 4294967295#32) : badgeRemove code s = answer .badValue s :=
  if_pos (badCode_true h)

theorem badgeRemove_goodCode (h0 : code ≠ 0#32) (h1 : code ≠ 4294967295#32) : badgeRemove code s =
    if (s.lookup code.toNat).isNone then answer .notFound s
    else answer .ok { s with badges := s.badges.filter fun e => decide (e.1 ≠ code.toNat) } :=
  if_neg (by simp [badCode_false h0 h1])

theorem exec_badgeRemove {c : ReplyCode} (h : Ready (.badgeRemove tag code) s)
    (hact : badgeRemove code s.taken = answer c u) :
    exec (.badgeRemove tag code) s = .next (u.reply 37#8 tag c []) :=
  congrArg Host.Outcome.next (request_ready h rfl hact)

theorem badgeFind_badCode (h : code = 0#32 ∨ code = 4294967295#32) : badgeFind code s = answer .badValue s :=
  if_pos (badCode_true h)

theorem badgeFind_none (h0 : code ≠ 0#32) (h1 : code ≠ 4294967295#32) (h : s.lookup code.toNat = none) :
    badgeFind code s = answer .notFound s := by
  simp [badgeFind, badCode_false h0 h1, h]

theorem badgeFind_some {i : Nat} (h0 : code ≠ 0#32) (h1 : code ≠ 4294967295#32) (h : s.lookup code.toNat = some i) :
    badgeFind code s = returns (be16 i) s := by
  simp [badgeFind, badCode_false h0 h1, h]

theorem exec_badgeFind {c : ReplyCode} {data : List Byte} (h : Ready (.badgeFind tag code) s)
    (hact : badgeFind code s.taken = ⟨u, c, data⟩) :
    exec (.badgeFind tag code) s = .next (u.reply 38#8 tag c data) :=
  congrArg Host.Outcome.next (request_ready h rfl hact)

/-! ## BADGE READ (R54) -/

theorem badgeRead_bad {first : Half} {count : Byte} (h : 15 < count.toNat ∨ 8192 < first.toNat + count.toNat + 1) :
    badgeRead first count s = answer .badIndex s :=
  if_pos (badRun_of_outside h)

theorem badgeRead_good {first : Half} {count : Byte} (hc : count.toNat ≤ 15) (hf : first.toNat + count.toNat + 1 ≤ 8192) :
    badgeRead first count s =
      returns (be16 s.badges.length ++ runBytes (badgeBytes s) first.toNat (count.toNat + 1)) s :=
  if_neg (by rw [badRun_of_inside hc hf]; simp)

theorem exec_badgeRead {first : Half} {count : Byte} {c : ReplyCode} {data : List Byte}
    (h : Ready (.badgeRead tag first count) s) (hact : badgeRead first count s.taken = ⟨u, c, data⟩) :
    exec (.badgeRead tag first count) s = .next (u.reply 39#8 tag c data) :=
  congrArg Host.Outcome.next (request_ready h rfl hact)

end Badges

/-- Settles O29: each request is answered as its block answers, check by check; the two writes by what they leave of the
lookup. -/
theorem badgeMapRequests : Obligations.BadgeMapRequests := by
  unfold Obligations.BadgeMapRequests
  refine ⟨fun tag code index s h => ⟨fun hbad => exec_badgeAdd h (badgeAdd_badCode hbad), fun h0 h1 => ?_⟩,
    fun tag code s h => ⟨fun hbad => exec_badgeRemove h (badgeRemove_badCode hbad), fun h0 h1 => ?_⟩,
    fun tag code s h => ⟨fun hbad => exec_badgeFind h (badgeFind_badCode hbad), fun h0 h1 =>
      ⟨fun hn => exec_badgeFind h (badgeFind_none h0 h1 hn), fun i hi => exec_badgeFind h (badgeFind_some h0 h1 hi)⟩⟩,
    fun tag first count s h => ⟨fun hbad => exec_badgeRead h (badgeRead_bad hbad), fun hc hf =>
      exec_badgeRead h (badgeRead_good hc hf)⟩⟩
  · have hadd := badgeAdd_goodCode (s := s.taken) (index := index) h0 h1
    refine ⟨fun hi => exec_badgeAdd h (hadd.trans (if_pos hi)), fun hi => ?_⟩
    rw [if_neg (not_le.2 hi)] at hadd
    refine ⟨fun hf => exec_badgeAdd h (hadd.trans (if_pos (by simp [Worker.inUse, hf]))), fun hu => ?_⟩
    rw [if_neg (by simp [Worker.inUse, hu])] at hadd
    refine ⟨fun hd => exec_badgeAdd h (hadd.trans (if_pos hd)), fun hn => ?_⟩
    rw [if_neg (by simp [hn])] at hadd
    refine ⟨fun hfull => exec_badgeAdd h (hadd.trans (if_pos hfull)), fun hroom => ?_⟩
    rw [if_neg (show ¬ Config.badgeCap ≤ s.taken.badges.length from not_le.2 hroom)] at hadd
    obtain ⟨hfound, hother⟩ := lookup_insertBadge (s := s)
      (u := { s.taken with badges := insertBadge code.toNat index.toNat s.badges }) rfl hn
    exact ⟨_, exec_badgeAdd h hadd, rfl, insertBadge_length _ _ _, hfound, hother⟩
  · have hremove := badgeRemove_goodCode (s := s.taken) h0 h1
    refine ⟨fun hn => exec_badgeRemove h (hremove.trans (if_pos (by simp [hn]))), fun hs => ?_⟩
    rw [if_neg (by simp [Option.isSome_iff_ne_none.1 hs])] at hremove
    obtain ⟨hgone, hother⟩ := lookup_removeBadge (s := s)
      (u := { s.taken with badges := s.badges.filter fun e => decide (e.1 ≠ code.toNat) }) rfl
    exact ⟨_, exec_badgeRemove h hremove, rfl, hgone, hother⟩

end Sys2Proof.Proofs
end

section
/-! PROOF. WORKER SET, WORKER FREE and PRESENCE SET (R38, R45 to R48). -/

namespace Sys2Proof.Proofs

open Machine Laws

section Worker

variable {s u : State} {tag : Byte} {index : Half} {status crew rateClass flags presence : Byte} {c : ReplyCode}

theorem inUse_of_ne_free {w : Worker} (h : w.status ≠ .free) : w.inUse = true := (inUse_iff w).2 h

theorem inUse_of_free {w : Worker} (h : w.status = .free) : w.inUse = false := by simp [Worker.inUse, h]

/-! ## WORKER SET (R45, R46) -/

theorem statusOf_none {b : Byte} (h : b.toNat = 0 ∨ 2 < b.toNat) : statusOf b = none := by
  unfold statusOf
  split
  · omega
  · omega
  · rfl

theorem statusOf_some {b : Byte} (h : b.toNat = 1 ∨ b.toNat = 2) :
    statusOf b = some (if b.toNat = 1 then .active else .suspended) := by
  rcases h with h | h <;> simp [statusOf, h]

theorem workerSet_badIndex (hi : 4096 ≤ index.toNat) :
    workerSet index status crew rateClass flags s = answer .badIndex s := if_pos hi

theorem workerSet_badValue (hi : index.toNat < 4096)
    (h : status.toNat = 0 ∨ 2 < status.toNat ∨ 15 < crew.toNat ∨ 15 < rateClass.toNat) :
    workerSet index status crew rateClass flags s = answer .badValue s := by
  unfold workerSet
  rw [if_neg (not_le.2 hi)]
  split
  · rfl
  · next st hst =>
    refine if_pos (by_contra fun hno => ?_)
    rw [statusOf_none (by omega)] at hst
    cases hst

/-- What WORKER SET leaves: the four fields written, on a FREE record over a fresh one (R45, R46). -/
theorem workerSet_taken (hi : index.toNat < 4096) (hs : status.toNat = 1 ∨ status.toNat = 2) (hc : crew.toNat ≤ 15)
    (hr : rateClass.toNat ≤ 15) : workerSet index status crew rateClass flags s = answer .ok
      (s.setWorker index.toNat
        { (if (s.worker index.toNat).status = .free then { Worker.zeroed with closeMark := s.close.gen }
            else s.worker index.toNat) with
          status := if status.toNat = 1 then .active else .suspended
          crew := crew.toNat, rateClass := rateClass.toNat, anytime := flags.getLsbD 0
          payhold := flags.getLsbD 1 }) := by
  unfold workerSet
  simp only [if_neg (not_le.2 hi), statusOf_some hs, if_neg (show ¬ (15 < crew.toNat ∨ 15 < rateClass.toNat) by omega)]
  by_cases hf : (s.worker index.toNat).status = .free
  · simp only [inUse_of_free hf, if_pos hf, Bool.false_eq_true, if_false]
  · simp only [inUse_of_ne_free hf, if_neg hf, if_true]

theorem exec_workerSet (h : Ready (.workerSet tag index status crew rateClass flags) s)
    (hact : workerSet index status crew rateClass flags s.taken = answer c u) :
    exec (.workerSet tag index status crew rateClass flags) s = .next (u.reply 32#8 tag c []) :=
  congrArg Host.Outcome.next (request_ready h rfl hact)

/-! ## WORKER FREE (R47) -/

theorem workerFree_badIndex (hi : 4096 ≤ index.toNat) : workerFree index s = answer .badIndex s := if_pos hi

theorem workerFree_free (hi : index.toNat < 4096) (hf : (s.worker index.toNat).status = .free) :
    workerFree index s = answer .ok s := by
  unfold workerFree
  simp only [if_neg (not_le.2 hi), inUse_of_free hf, Bool.not_false, if_true]

/-- WORKER FREE of a record in use: its three checks, then the record zeroed and its badges gone. -/
theorem workerFree_inUse (hi : index.toNat < 4096) (hf : (s.worker index.toNat).status ≠ .free) :
    workerFree index s =
      if (s.worker index.toNat).presence = .inside ∨ (s.worker index.toNat).attendance.isSome
          ∨ (s.worker index.toNat).muster = .unaccounted then answer .notPermitted s
      else if s.heldByLane index.toNat then answer .busy s
      else
        answer .ok
          { s.setWorker index.toNat Worker.zeroed with
            badges := s.badges.filter fun e => decide (e.2 ≠ index.toNat) } := by
  unfold workerFree
  simp only [if_neg (not_le.2 hi), inUse_of_ne_free hf, Bool.not_true, Bool.false_eq_true, if_false]

theorem exec_workerFree (h : Ready (.workerFree tag index) s) (hact : workerFree index s.taken = answer c u) :
    exec (.workerFree tag index) s = .next (u.reply 33#8 tag c []) :=
  congrArg Host.Outcome.next (request_ready h rfl hact)

/-! ## PRESENCE SET (R48) -/

theorem presenceOf_none {b : Byte} (h : 2 < b.toNat) : presenceOf b = none := by
  unfold presenceOf
  split
  · omega
  · omega
  · omega
  · rfl

theorem presenceOf_some {b : Byte} (h : b.toNat ≤ 2) : ∃ p, presenceOf b = some p := by
  have hb : b.toNat = 0 ∨ b.toNat = 1 ∨ b.toNat = 2 := by omega
  rcases hb with hb | hb | hb <;> simp [presenceOf, hb]

theorem exec_presenceSet (h : Ready (.presenceSet tag index presence) s)
    (hact : presenceSet index presence s.taken = answer c u) :
    exec (.presenceSet tag index presence) s = .next (u.reply 34#8 tag c []) :=
  congrArg Host.Outcome.next (request_ready h rfl hact)

/-- The inside count follows the presence (R38). -/
theorem insideAfter_eq (n : Nat) (before after : Presence) : insideAfter n before after =
    if after = .inside ∧ before ≠ .inside then n + 1
    else if after ≠ .inside ∧ before = .inside then n - 1 else n := by
  unfold insideAfter
  simp only [and_comm]

end Worker

/-- Settles O25: each request is answered as its block answers, check by check, and what is written is read back. -/
theorem workerTableWrites : Obligations.WorkerTableWrites := by
  unfold Obligations.WorkerTableWrites
  refine ⟨fun tag index status crew rateClass flags s h => ⟨fun hi => exec_workerSet h (workerSet_badIndex hi),
      fun hi hbad => exec_workerSet h (workerSet_badValue hi hbad), fun hi hs hc hr => ?_⟩,
    fun tag index s h => ⟨fun hi => exec_workerFree h (workerFree_badIndex hi),
      fun hi hf => exec_workerFree h (workerFree_free hi hf), fun hi hf hno => ?_,
      fun hi hf hp ha hm => ⟨fun hheld => ?_, fun hheld => ?_⟩⟩,
    fun tag index presence s h => ⟨fun hi => exec_presenceSet h (presenceSet_badIndex hi),
      fun hi hp => exec_presenceSet h (presenceSet_badValue hi (presenceOf_none hp)), fun hi hp hf => ?_,
      fun hi hf p hp => ?_⟩⟩
  · exact ⟨_, exec_workerSet h (workerSet_taken hi hs hc hr), rfl, fun j hj => setWorker_ne _ _ _ _ hj, setWorker_same ..⟩
  · exact exec_workerFree h ((workerFree_inUse (s := s.taken) hi hf).trans (if_pos (by
      rwa [Option.isSome_iff_ne_none])))
  · have hfree := workerFree_inUse (s := s.taken) hi hf
    rw [if_neg (by simp [hp, ha, hm])] at hfree
    exact exec_workerFree h (hfree.trans (if_pos (heldByLane_iff.2 hheld)))
  · have hfree := workerFree_inUse (s := s.taken) hi hf
    rw [if_neg (by simp [hp, ha, hm]), if_neg (mt (heldByLane_iff (s := s.taken)).1 hheld)] at hfree
    exact ⟨_, exec_workerFree h hfree, rfl, setWorker_same s.taken index.toNat Worker.zeroed,
      fun j hj => setWorker_ne s.taken index.toNat j Worker.zeroed hj⟩
  · obtain ⟨p, hp⟩ := presenceOf_some hp
    exact exec_presenceSet h (presenceSet_free hi hp (inUse_of_free hf))
  · refine ⟨overrideRecord index.toNat p s.taken, exec_presenceSet h (presenceSet_taken hi hp (inUse_of_ne_free hf)), rfl,
      ?_, fun j hj => ?_, insideAfter_eq _ _ _, rfl⟩
    · rw [overrideRecord_worker, if_pos rfl]
      rfl
    · rw [overrideRecord_worker, if_neg hj]
      rfl

end Sys2Proof.Proofs
end

section
/-! PROOF. WORKER READ, CLOSED READ, MUSTER READ and MUSTER LIST (R49, R124, R183, R184). -/

namespace Sys2Proof.Proofs

open Machine Laws

/-! ## The three requests that read a run of records -/

section Runs

variable {s u : State} {tag count : Byte} {first : Half} {c : ReplyCode} {data : List Byte}

theorem workerRead_bad (h : 15 < count.toNat ∨ 4096 < first.toNat + count.toNat + 1) :
    workerRead first count s = answer .badIndex s :=
  if_pos (badRun_of_outside h)

theorem workerRead_good (hc : count.toNat ≤ 15) (hf : first.toNat + count.toNat + 1 ≤ 4096) :
    workerRead first count s =
      returns (runBytes (fun i => (s.worker i).bytes) first.toNat (count.toNat + 1)) s :=
  if_neg (by rw [badRun_of_inside hc hf]; exact Bool.false_ne_true)

theorem exec_workerRead (h : Ready (.workerRead tag first count) s) (hact : workerRead first count s.taken = ⟨u, c, data⟩) :
    exec (.workerRead tag first count) s = .next (u.reply 35#8 tag c data) :=
  congrArg Host.Outcome.next (request_ready h rfl hact)

theorem closedRead_bad (h : 15 < count.toNat ∨ 4096 < first.toNat + count.toNat + 1) :
    closedRead first count s = answer .badIndex s :=
  if_pos (badRun_of_outside h)

theorem closedRead_good (hc : count.toNat ≤ 15) (hf : first.toNat + count.toNat + 1 ≤ 4096) :
    closedRead first count s =
      returns (runBytes
        (fun i => (s.worker i).closed.bytes ++ [(s.worker i).closedGen] ++ be32 (s.worker i).closedAt) first.toNat
        (count.toNat + 1)) s :=
  if_neg (by rw [badRun_of_inside hc hf]; exact Bool.false_ne_true)

theorem exec_closedRead (h : Ready (.closedRead tag first count) s) (hact : closedRead first count s.taken = ⟨u, c, data⟩) :
    exec (.closedRead tag first count) s = .next (u.reply 66#8 tag c data) :=
  congrArg Host.Outcome.next (request_ready h rfl hact)

theorem musterRead_bad (h : 15 < count.toNat ∨ 4096 < first.toNat + count.toNat + 1) :
    musterRead first count s = answer .badIndex s :=
  if_pos (badRun_of_outside h)

theorem musterRead_good (hc : count.toNat ≤ 15) (hf : first.toNat + count.toNat + 1 ≤ 4096) :
    musterRead first count s =
      returns
        (be8 (if s.evac.evacuating then 1 else 0) ++ be8 s.evac.causes.mask ++ flagByte s.evac.drive
          ++ be8 (if s.evac.armed then 0 else 1) ++ stampBytes s.evac.snapshot ++ be16 s.evac.rollSize
          ++ be16 s.evac.unaccounted
          ++ runBytes (fun i => be8 (s.worker i).muster.code ++ be8 (s.worker i).presence.code) first.toNat
            (count.toNat + 1)) s :=
  if_neg (by rw [badRun_of_inside hc hf]; exact Bool.false_ne_true)

theorem exec_musterRead (h : Ready (.musterRead tag first count) s) (hact : musterRead first count s.taken = ⟨u, c, data⟩) :
    exec (.musterRead tag first count) s = .next (u.reply 114#8 tag c data) :=
  congrArg Host.Outcome.next (request_ready h rfl hact)

end Runs

/-! ## The items of a worker record (R202, R203) -/

theorem bitSet_two (a b : Bool) : bitSet [a, b] = (if a then 1 else 0) + if b then 2 else 0 := by
  cases a <;> cases b <;> rfl

theorem causes_mask_eq (c : Causes) :
    c.mask = (if c.fire then 1 else 0) + (if c.command then 2 else 0) + if c.chain then 4 else 0 := by
  obtain ⟨fire, command, chain⟩ := c
  cases fire <;> cases command <;> cases chain <;> rfl

/-- The bytes of a number that is a gate time are those of the number (R202). -/
theorem timeBytes_of_gateTime {t : Nat} (h : t ≤ 4294967295) : timeBytes t = be32 t :=
  if_pos ⟨Int.natCast_nonneg t, Int.ofNat_le.2 h⟩

theorem attendanceBytes_none : attendanceBytes none = List.replicate 25 0#8 := rfl

theorem attendanceBytes_unscheduled {a : Attendance} (h : a.scheduled = none) : attendanceBytes (some a) =
    [1#8] ++ be32 a.inTime ++ List.replicate 9 0#8 ++ be16 a.dayKey ++ be32 a.deadline
      ++ be8 ((if a.carried then 1 else 0) + if a.breakTaken then 2 else 0) ++ be32 a.carriedGross := by
  rw [← bitSet_two]
  simp only [attendanceBytes, h]
  rfl

theorem attendanceBytes_scheduled {a : Attendance} {i : Scheduled} (h : a.scheduled = some i) (hstart : i.start ≤ 4294967295)
    (hstop : i.stop ≤ 4294967295) : attendanceBytes (some a) =
    [2#8] ++ be32 a.inTime ++ be8 i.shift ++ be32 i.start ++ be32 i.stop ++ be16 a.dayKey ++ be32 a.deadline
      ++ be8 ((if a.carried then 1 else 0) + if a.breakTaken then 2 else 0) ++ be32 a.carriedGross := by
  rw [← bitSet_two]
  simp only [attendanceBytes, h, timeBytes_of_gateTime hstart, timeBytes_of_gateTime hstop]
  rfl

/-- An empty tally has the key 65,535 (R202); its minutes are a free value (log entry 10). -/
theorem tallyBytes_none : ∃ m1 m2, tallyBytes none = [255#8, 255#8, m1, m2] := ⟨_, _, rfl⟩

/-! ## MUSTER LIST (R184) -/

section List

variable {s u : State} {tag : Byte} {start : Half} {c : ReplyCode} {data : List Byte}

theorem musterList_bad (h : 4096 ≤ start.toNat) : musterList start s = answer .badIndex s := if_pos h

theorem musterList_good (h : start.toNat < 4096) : musterList start s =
    returns (be16 s.evac.unaccounted ++ be8 ((s.unaccountedFrom start.toNat).take 16).length
      ++ ((s.unaccountedFrom start.toNat).take 16).flatMap be16 ++ be16 (nextMuster (s.unaccountedFrom start.toNat))) s :=
  if_neg (not_le.2 h)

theorem exec_musterList (h : Ready (.musterList tag start) s) (hact : musterList start s.taken = ⟨u, c, data⟩) :
    exec (.musterList tag start) s = .next (u.reply 115#8 tag c data) :=
  congrArg Host.Outcome.next (request_ready h rfl hact)

/-- The indexes of MUSTER LIST are listed in ascending order. -/
theorem unaccountedFrom_rising (h : Table.wf Worker.zeroed s.workers = true) (n : Nat) :
    (s.unaccountedFrom n).Pairwise (· < ·) :=
  List.pairwise_map.2 ((wf_iff.1 h).1.filter _)

/-- They are the indexes from the start index on whose records are marked UNACCOUNTED. -/
theorem mem_unaccountedFrom (h : Table.wf Worker.zeroed s.workers = true) (n j : Nat) :
    j ∈ s.unaccountedFrom n ↔ (s.worker j).muster = .unaccounted ∧ n ≤ j := by
  have listed := exists_mem_iff h (p := fun i w => (w.muster = .unaccounted ∧ n ≤ i) ∧ i = j)
    (by rintro i ⟨⟨hmark, -⟩, -⟩; cases hmark)
  simp only [State.unaccountedFrom, List.mem_map, List.mem_filter, Bool.and_eq_true, decide_eq_true_eq, and_assoc]
    at listed ⊢
  refine listed.trans ⟨?_, fun ⟨hmark, hn⟩ => ⟨j, hmark, hn, rfl⟩⟩
  rintro ⟨i, hmark, hn, rfl⟩
  exact ⟨hmark, hn⟩

end List

/-- Settles O26: each request is answered as its block answers, and the data are read item by item. -/
theorem recordReadsReply : Obligations.RecordReadsReply := by
  unfold Obligations.RecordReadsReply
  refine ⟨fun tag first count s =>
      ⟨fun h => ⟨fun hbad => exec_workerRead h (workerRead_bad hbad), fun hc hf => exec_workerRead h (workerRead_good hc hf)⟩,
        fun h => ⟨fun hbad => exec_closedRead h (closedRead_bad hbad),
          fun hc hf => exec_closedRead h (closedRead_good hc hf)⟩⟩,
    fun w => ⟨attendanceBytes w.attendance, tallyBytes w.dayTally, tallyBytes w.weekTally, ?_, fun ha => ?_,
      fun a ha hs => ?_, fun a i ha hs hstart hstop => ?_, ⟨fun y hy => ?_, fun hy => ?_⟩, fun y hy => ?_, fun hy => ?_⟩,
    fun tag first count s h => ⟨fun hbad => exec_musterRead h (musterRead_bad hbad), fun hc hf => ?_⟩,
    fun tag start s h => ⟨fun hbad => exec_musterList h (musterList_bad hbad), fun hi hw =>
      ⟨s.unaccountedFrom start.toNat, exec_musterList h (musterList_good hi), unaccountedFrom_rising hw _,
        mem_unaccountedFrom hw _⟩⟩⟩
  · rw [← bitSet_two]
    rfl
  · rw [ha, attendanceBytes_none]
  · rw [ha, attendanceBytes_unscheduled hs]
  · rw [ha, attendanceBytes_scheduled hs hstart hstop]
  · rw [hy]; rfl
  · rw [hy]; exact tallyBytes_none
  · rw [hy]; rfl
  · rw [hy]; exact tallyBytes_none
  · rw [← causes_mask_eq]
    exact exec_musterRead h (musterRead_good hc hf)

end Sys2Proof.Proofs
end

section
/-! SUPPORT. What the operations on one lane make of it: `LaneBecomes n l s t` says that from `s` to `t` the LANE records and
every other lane stand and lane `n` becomes `l`; one equation for each operation of the Lane Engine. -/

namespace Sys2Proof.Proofs

open Machine Laws

/-! ## The relation -/

/-- From `s` to `t` the LANE records and every lane but `n` stand, and lane `n` becomes `l`. -/
structure LaneBecomes (n : Nat) (l : Lane) (s t : State) : Prop where
  table : t.laneTable = s.laneTable
  canonical : Table.wf Lane.cold s.lanes = true → Table.wf Lane.cold t.lanes = true
  others : ∀ k, k ≠ n → t.lane k = s.lane k
  lane : t.lane n = l

section Becomes

variable {n : Nat} {l m : Lane} {s t u : State}

theorem LaneBecomes.laneRecord (h : LaneBecomes n l s t) (k : Nat) : t.laneRecord k = s.laneRecord k := by
  unfold State.laneRecord; rw [h.table]

theorem LaneBecomes.trans (h1 : LaneBecomes n l s t) (h2 : LaneBecomes n m t u) : LaneBecomes n m s u where
  table := h2.table.trans h1.table
  canonical h := h2.canonical (h1.canonical h)
  others k hk := (h2.others k hk).trans (h1.others k hk)
  lane := h2.lane

/-- An operation that leaves every lane as it is may follow. -/
theorem LaneBecomes.andThen (h : LaneBecomes n l s t) (hl : u.lanes = t.lanes) (ht : u.laneTable = t.laneTable) :
    LaneBecomes n l s u where
  table := ht.trans h.table
  canonical hw := by rw [hl]; exact h.canonical hw
  others k hk := by unfold State.lane; rw [hl]; exact h.others k hk
  lane := by unfold State.lane; rw [hl]; exact h.lane

theorem LaneBecomes.pays (h : LaneBecomes n l s t) (hp : Pays t u) : LaneBecomes n l s u := h.andThen hp.lanes hp.laneTable

theorem LaneBecomes.sends (h : LaneBecomes n l s t) (hs : Sends t u) : LaneBecomes n l s u := by
  obtain ⟨q, rfl, -⟩ := hs
  exact h.andThen rfl rfl

theorem laneBecomes_refl (n : Nat) (s : State) : LaneBecomes n (s.lane n) s s := ⟨rfl, id, fun _ _ => rfl, rfl⟩

theorem laneBecomes_setLane (n : Nat) (l : Lane) (s : State) : LaneBecomes n l s (s.setLane n l) :=
  ⟨rfl, fun h => wf_set h n l, fun _ hk => setLane_ne _ _ _ _ hk, setLane_same ..⟩

theorem laneBecomes_setConditions (n : Nat) (c : LaneConditions) (s : State) :
    LaneBecomes n (flagged (s.lane n) c) s (setConditions n c s) :=
  (laneBecomes_setLane n _ s).sends (setConditions_spec n c s)

theorem laneBecomes_endRelease (n : Nat) (next : LaneState) (s : State) :
    LaneBecomes n (released (s.lane n) next) s (endRelease n next s) :=
  (laneBecomes_setLane n _ s).pays (endRelease_pays n next s)

end Becomes

/-- What an operation makes of the lane as it finds it, after one that has made `l` of it. -/
theorem LaneBecomes.andMakes (f : Lane → Lane) {n : Nat} {l : Lane} {s t u : State} (h : LaneBecomes n l s t)
    (hop : LaneBecomes n (f (t.lane n)) t u) : LaneBecomes n (f l) s u := by
  rw [h.lane] at hop
  exact h.trans hop

/-- A write to the lane after an operation. -/
theorem LaneBecomes.setLane (f : Lane → Lane) {n : Nat} {l : Lane} {s t : State} (h : LaneBecomes n l s t) :
    LaneBecomes n (f l) s (t.setLane n (f (t.lane n))) :=
  h.andMakes f (laneBecomes_setLane n _ t)

/-- New conditions after an operation. -/
theorem LaneBecomes.setConditions (c : LaneConditions) {n : Nat} {l : Lane} {s t : State} (h : LaneBecomes n l s t) :
    LaneBecomes n (flagged l c) s (setConditions n c t) :=
  h.andMakes (fun l => flagged l c) (laneBecomes_setConditions n c t)

/-! ## Lanes after the operations on them -/

/-- A lane that leaves its state for LOST, before its conditions change: a release and a held timer end (R63). -/
def leftForLost (l : Lane) : Lane :=
  match l.state with
  | .released => { released l .lost with good := 0 }
  | .opened => { l with state := .lost, heldTimer := none, good := 0 }
  | _ => { l with state := .lost, good := 0 }

/-- The lane after entry to LOST (R63). -/
def lostLane (l : Lane) : Lane := flagged (leftForLost l) (lostConditions l.state l.conditions)

/-- The lane after a missed reply, with the loss threshold (R63). -/
def missedLane (threshold : Nat) (l : Lane) : Lane :=
  if l.state = .lost then { l with missed := min (l.missed + 1) 255, good := 0 }
  else if threshold ≤ min (l.missed + 1) 255 then lostLane { l with missed := min (l.missed + 1) 255 }
  else { l with missed := min (l.missed + 1) 255 }

/-- The LOST lane after the good reply that recovers it (R64). -/
def recoveredLane (l : Lane) : Lane :=
  flagged { l with state := .idle, missed := 0, good := 0, lastBit := none } { l.conditions with lost := false }

/-- The lane after a good reply (R63, R64). -/
def repliedLane (l : Lane) : Lane :=
  if l.state = .lost then
    if 2 ≤ l.good + 1 then recoveredLane l else { l with missed := 0, good := l.good + 1 }
  else { l with missed := 0 }

/-- The lane after a DISABLED write (R59). -/
def disabledLane (l : Lane) : Lane :=
  flagged { released l .disabled with heldTimer := none, pollTimer := none, replyWindow := none } LaneConditions.clear

/-- The lane after an enabling write (R58). -/
def enabledLane (interval : Nat) (l : Lane) : Lane :=
  { l with state := .idle, missed := 0, good := 0, lastBit := none, pollTimer := some interval }

/-- The OPEN lane with its held timer started (R68). -/
def openedLane (ticks : Nat) (l : Lane) : Lane :=
  { l with state := .opened, releaseTimer := none, punch := none, heldTimer := some ticks }

/-- The lane after DOOR CLOSED in OPEN (R69). -/
def closedLane (l : Lane) : Lane :=
  flagged { l with state := .idle, heldTimer := none } { l.conditions with forced := false, held := false }

section Operations

variable (n : Nat) (s : State)

/-- Entry to LOST is the leaving of its state, then the conditions. -/
theorem loseLane_eq : ∃ v, LaneBecomes n (leftForLost (s.lane n)) s v
    ∧ loseLane n s = setConditions n (lostConditions (s.lane n).state (s.lane n).conditions) v := by
  unfold loseLane leftForLost
  dsimp only
  cases (s.lane n).state
  case released =>
    have h := (laneBecomes_endRelease n .lost s).setLane fun l => { l with good := 0 }
    exact ⟨_, h, by rw [h.lane]; rfl⟩
  case opened =>
    have h := (laneBecomes_setLane n { s.lane n with state := .lost, heldTimer := none } s).setLane
      fun l => { l with good := 0 }
    exact ⟨_, h, by rw [h.lane]⟩
  all_goals
    have h := (laneBecomes_setLane n { s.lane n with state := .lost } s).setLane fun l => { l with good := 0 }
    exact ⟨_, h, by rw [h.lane]⟩

theorem laneBecomes_loseLane : LaneBecomes n (lostLane (s.lane n)) s (loseLane n s) := by
  obtain ⟨v, hv, e⟩ := loseLane_eq n s
  rw [e]
  exact hv.setConditions _

theorem laneBecomes_missedReply : LaneBecomes n (missedLane s.lossThreshold (s.lane n)) s (missedReply n s) := by
  unfold missedReply missedLane
  dsimp only
  split
  · exact laneBecomes_setLane ..
  have h := laneBecomes_setLane n { s.lane n with missed := min ((s.lane n).missed + 1) 255 } s
  split
  · exact h.andMakes lostLane (laneBecomes_loseLane n _)
  · exact h

theorem laneBecomes_goodReply : LaneBecomes n (repliedLane (s.lane n)) s (goodReply n s) := by
  unfold goodReply repliedLane
  dsimp only
  split
  · split
    · exact (laneBecomes_setLane ..).setConditions _
    · exact laneBecomes_setLane ..
  · exact laneBecomes_setLane ..

theorem laneBecomes_endExchange : LaneBecomes n (exchanged s.part.pollInterval (s.lane n)) s (endExchange n s) :=
  laneBecomes_setLane ..

theorem laneBecomes_openLane : LaneBecomes n (openedLane (s.heldTicks n) (s.lane n)) s (openLane n s) :=
  laneBecomes_setLane ..

theorem laneBecomes_disableLane : LaneBecomes n (disabledLane (s.lane n)) s (disableLane n s) :=
  ((laneBecomes_endRelease n .disabled s).setLane fun l =>
    { l with heldTimer := none, pollTimer := none, replyWindow := none }).setConditions LaneConditions.clear

theorem laneBecomes_enableLane : LaneBecomes n (enabledLane s.part.pollInterval (s.lane n)) s (enableLane n s) :=
  laneBecomes_setLane ..

/-- DOOR CLOSED in OPEN (R69). -/
theorem doorClosed_opened (h : (s.lane n).state = .opened) : doorClosed n s =
    setConditions n { (s.lane n).conditions with forced := false, held := false }
      (s.setLane n { s.lane n with state := .idle, heldTimer := none }) :=
  if_pos h

/-- DOOR CLOSED in any other state (R69). -/
theorem doorClosed_other (h : (s.lane n).state ≠ .opened) : doorClosed n s = s := if_neg h

theorem laneBecomes_doorClosed (h : (s.lane n).state = .opened) :
    LaneBecomes n (closedLane (s.lane n)) s (doorClosed n s) := by
  rw [doorClosed_opened n s h]
  exact (laneBecomes_setLane ..).setConditions _

end Operations

/-! ## Head events (R62) -/

section HeadEvents

variable {n : Nat} {bit : Bool} {act : State → State} {s : State}

/-- A reply is awaited on an enabled lane's line alone. -/
theorem awaitsReply_enabled (h : s.awaitsReply n = true) : (s.lane n).state ≠ .disabled := by
  simp only [State.awaitsReply, Bool.and_eq_true, decide_eq_true_eq] at h
  exact h.1.2

theorem headEvent_ignored (h : ¬ s.awaitsReply n = true) : headEvent n bit act s = s := if_neg h

/-- A repeat of the last accepted bit (R62). -/
theorem headEvent_repeat (h : s.awaitsReply n = true) (hb : (s.lane n).lastBit = some bit) :
    headEvent n bit act s = goodReply n (endExchange n s) := by
  have hl : ((endExchange n s).lane n).lastBit = some bit := by rw [endExchange_eq, setLane_same]; exact hb
  simp only [headEvent, h, hl, if_true]

/-- The exchange ends with a new event's bit as the last one (R60, R62). -/
def accepted (n : Nat) (bit : Bool) (s : State) : State :=
  (endExchange n s).setLane n { (endExchange n s).lane n with lastBit := some bit }

theorem laneBecomes_accepted (n : Nat) (bit : Bool) (s : State) :
    LaneBecomes n { exchanged s.part.pollInterval (s.lane n) with lastBit := some bit } s (accepted n bit s) :=
  (laneBecomes_endExchange n s).setLane fun l => { l with lastBit := some bit }

/-- A new event at a LOST lane counts as a good reply and is ignored itself (R64). -/
theorem headEvent_lost (h : s.awaitsReply n = true) (hb : (s.lane n).lastBit ≠ some bit) (hs : (s.lane n).state = .lost) :
    headEvent n bit act s = goodReply n (accepted n bit s) := by
  have hl := (laneBecomes_endExchange n s).lane
  simp only [headEvent, h, if_true]
  rw [hl, if_neg (by exact hb), if_pos (by exact hs), accepted, hl]

/-- A new event outside LOST is taken after the reply has counted (R62). -/
theorem headEvent_new (h : s.awaitsReply n = true) (hb : (s.lane n).lastBit ≠ some bit) (hs : (s.lane n).state ≠ .lost) :
    headEvent n bit act s = act (goodReply n (accepted n bit s)) := by
  have hl := (laneBecomes_endExchange n s).lane
  simp only [headEvent, h, if_true]
  rw [hl, if_neg (by exact hb), if_neg (by exact hs), accepted, hl]

end HeadEvents

end Sys2Proof.Proofs
end

section
/-! SUPPORT. Lanes that fit their LANE record (R58 to R60, R67, R70, R93): each operation on a lane makes a lane that fits of
one that fits. -/

namespace Sys2Proof.Proofs

open Machine Laws

/-- The items of a lane that `LaneFits` speaks of: state and conditions, and which of its timers run and whether it holds a
punch. -/
def laneShape (l : Lane) : LaneState × LaneConditions × Bool × Bool × Bool × Bool × Bool :=
  (l.state, l.conditions, l.releaseTimer.isSome, l.heldTimer.isSome, l.punch.isSome, l.pollTimer.isSome,
    l.replyWindow.isSome)

section Fits

variable {enabled : Bool} {l m : Lane}

/-- A lane that differs in no such item fits as well. -/
theorem laneFits_sameShape (h : LaneFits enabled l) (hs : laneShape m = laneShape l) : LaneFits enabled m := by
  simp only [laneShape, Prod.mk.injEq] at hs
  obtain ⟨hstate, hcond, hrel, hheld, hpunch, hpoll, hwin⟩ := hs
  have none_iff : ∀ {a b : Option Nat}, a.isSome = b.isSome → (a = none ↔ b = none) := by
    intro a b hab; cases a <;> cases b <;> simp_all
  constructor
  · rw [hstate]; exact h.disabled
  · rw [hstate, hrel]; exact h.release
  · rw [hstate, hheld]; exact h.held
  · rw [hstate, hpunch]; exact h.punch
  · rw [hstate, hcond, none_iff hpoll, none_iff hwin]; exact h.quiet
  · rw [hstate, hpoll, none_iff hwin]; exact h.polled
  · rw [hstate, hcond]; exact h.lost
  · rw [hstate, hcond]; exact h.door

/-- Outside RELEASED the release timer is stopped and no punch is held (R67, R93). -/
theorem laneFits_quiet (h : LaneFits enabled l) (hr : l.state ≠ .released) : l.releaseTimer = none ∧ l.punch = none := by
  constructor
  · cases hl : l.releaseTimer with
    | none => rfl
    | some k => exact absurd (h.release.1 (by rw [hl]; rfl)) hr
  · cases hl : l.punch with
    | none => rfl
    | some p => exact absurd (h.punch (by rw [hl]; rfl)) hr

/-- Outside OPEN the held timer is stopped, and FORCED and HELD are clear (R69, R70). -/
theorem laneFits_notHeld (h : LaneFits enabled l) (ho : l.state ≠ .opened) :
    l.heldTimer = none ∧ l.conditions.forced = false ∧ l.conditions.held = false := by
  refine ⟨?_, ?_, ?_⟩
  · cases hl : l.heldTimer with
    | none => rfl
    | some k => exact absurd (h.held (by rw [hl]; rfl)) ho
  · cases hl : l.conditions.forced with
    | false => rfl
    | true => exact absurd (h.door (.inl hl)) ho
  · cases hl : l.conditions.held with
    | false => rfl
    | true => exact absurd (h.door (.inr hl)) ho

theorem laneFits_notLost (h : LaneFits enabled l) (hl : l.state ≠ .lost) : l.conditions.lost = false := by
  cases hc : l.conditions.lost with
  | false => rfl
  | true => exact absurd (h.lost.1 hc) hl

theorem laneFits_exchanged (h : LaneFits enabled l) (hd : l.state ≠ .disabled) (interval : Nat) :
    LaneFits enabled (exchanged interval l) :=
  { h with quiet := fun hq => absurd hq hd, polled := fun _ => by simp [exchanged] }

theorem laneFits_polling (h : LaneFits enabled l) (hd : l.state ≠ .disabled) (window : Nat) (line : Option LaneFrame) :
    LaneFits enabled { l with pollTimer := none, replyWindow := some window, line := line } :=
  { h with quiet := fun hq => absurd hq hd, polled := fun _ => by simp }

/-- A release ends in IDLE (R67, R72, R75). -/
theorem laneFits_idle (h : LaneFits enabled l) (hs : l.state = .released) : LaneFits enabled (released l .idle) := by
  obtain ⟨hheld, hf, hh⟩ := laneFits_notHeld h (by simp [hs])
  have hlost := laneFits_notLost h (by simp [hs])
  have he := h.disabled
  have hp := h.polled
  constructor <;> simp_all [released]

/-- A lane that is lost (R63). -/
theorem laneFits_lost (h : LaneFits enabled l) (hd : l.state ≠ .disabled) : LaneFits enabled (lostLane l) := by
  have he := h.disabled
  have hp := h.polled
  have hquiet := fun hr => laneFits_quiet h hr
  have hheld := fun ho => laneFits_notHeld h ho
  constructor <;> cases hs : l.state <;> simp_all [lostLane, leftForLost, released, flagged, lostConditions]

theorem laneFits_missed (h : LaneFits enabled l) (hd : l.state ≠ .disabled) (threshold : Nat) :
    LaneFits enabled (missedLane threshold l) := by
  unfold missedLane
  split
  · exact laneFits_sameShape h rfl
  split
  · exact laneFits_lost (l := { l with missed := min (l.missed + 1) 255 }) (laneFits_sameShape h rfl) hd
  · exact laneFits_sameShape h rfl

theorem laneFits_replied (h : LaneFits enabled l) : LaneFits enabled (repliedLane l) := by
  unfold repliedLane
  split
  · next hs =>
    split
    · obtain ⟨hrel, hpunch⟩ := laneFits_quiet h (by simp [hs])
      obtain ⟨hheld, hf, hh⟩ := laneFits_notHeld h (by simp [hs])
      have he := h.disabled
      have hp := h.polled
      constructor <;> simp_all [recoveredLane, flagged]
    · exact laneFits_sameShape h rfl
  · exact laneFits_sameShape h rfl

/-- IDLE and RELEASED lanes open (R68). -/
theorem laneFits_opened (h : LaneFits enabled l) (hs : l.state = .idle ∨ l.state = .released) (ticks : Nat) :
    LaneFits enabled (openedLane ticks l) := by
  have hlost := laneFits_notLost h (by rcases hs with hs | hs <;> simp [hs])
  have he := h.disabled
  have hp := h.polled
  constructor <;> rcases hs with hs | hs <;> simp_all [openedLane]

/-- An OPEN lane closes (R69). -/
theorem laneFits_closed (h : LaneFits enabled l) (hs : l.state = .opened) : LaneFits enabled (closedLane l) := by
  obtain ⟨hrel, hpunch⟩ := laneFits_quiet h (by simp [hs])
  have hlost := laneFits_notLost h (by simp [hs])
  have he := h.disabled
  have hp := h.polled
  constructor <;> simp_all [closedLane, flagged]

/-- An IDLE lane is released (R66, R94). -/
theorem laneFits_released (h : LaneFits enabled l) (hs : l.state = .idle) (p : Option ReleasedPunch) (ticks : Nat) :
    LaneFits enabled { l with state := .released, punch := p, releaseTimer := some ticks } := by
  obtain ⟨hheld, hf, hh⟩ := laneFits_notHeld h (by simp [hs])
  have hlost := laneFits_notLost h (by simp [hs])
  have he := h.disabled
  have hp := h.polled
  constructor <;> simp_all

/-- The held timer of an OPEN lane is written (R70, R72, R76). -/
theorem laneFits_heldTimer (h : LaneFits enabled l) (hs : l.state = .opened) (t : Option Nat) :
    LaneFits enabled { l with heldTimer := t } :=
  { h with held := fun _ => hs }

/-- FORCED and HELD may set at an OPEN lane (R68, R70). -/
theorem laneFits_door (h : LaneFits enabled l) (hs : l.state = .opened) (forced held : Bool) :
    LaneFits enabled (flagged l { l.conditions with forced := forced, held := held }) :=
  { h with
    quiet := fun hd => absurd (hs.symm.trans hd) (by decide)
    door := fun _ => hs }

theorem laneFits_tamper (h : LaneFits enabled l) (hd : l.state ≠ .disabled) (on : Bool) :
    LaneFits enabled (flagged l { l.conditions with tamper := on }) :=
  { h with quiet := fun hq => absurd hq hd }

/-- A LANE write disables the lane (R59). -/
theorem laneFits_disabled (l : Lane) : LaneFits false (disabledLane l) := by
  constructor <;> simp [disabledLane, flagged, released, LaneConditions.clear]

/-- A LANE write enables the lane (R58). -/
theorem laneFits_enabled (h : LaneFits false l) (interval : Nat) : LaneFits true (enabledLane interval l) := by
  have hs : l.state = .disabled := h.disabled.2 rfl
  obtain ⟨-, hwin, hc⟩ := h.quiet hs
  obtain ⟨hrel, hpunch⟩ := laneFits_quiet h (by simp [hs])
  obtain ⟨hheld, -, -⟩ := laneFits_notHeld h (by simp [hs])
  constructor <;> simp_all [enabledLane, LaneConditions.clear]

end Fits

end Sys2Proof.Proofs
end

section
/-! SUPPORT. Every operation of the blocks keeps the lanes fitting their records: what touches no lane, what writes one lane
through `LaneBecomes`, and what writes every lane. -/

namespace Sys2Proof.Proofs

open Machine Laws

/-! ## Steps on several lanes, one after another -/

/-- Steps that each make `f n` of lane `n`, taken once for every lane of a list, with a property that they keep. -/
theorem foldl_lanes {step : State → Nat → State} {f : Nat → Lane → Lane} {P : State → Prop}
    (hstep : ∀ u n, P u → LaneBecomes n (f n (u.lane n)) u (step u n) ∧ P (step u n)) {l : List Nat} (hl : l.Nodup)
    {s : State} (hs : P s) :
    P (l.foldl step s) ∧ (l.foldl step s).laneTable = s.laneTable
      ∧ (Table.wf Lane.cold s.lanes = true → Table.wf Lane.cold (l.foldl step s).lanes = true)
      ∧ ∀ k, (l.foldl step s).lane k = if k ∈ l then f k (s.lane k) else s.lane k := by
  induction l generalizing s with
  | nil => exact ⟨hs, rfl, id, fun _ => rfl⟩
  | cons n l ih =>
    obtain ⟨hn, hl⟩ := List.nodup_cons.1 hl
    obtain ⟨hb, hp⟩ := hstep s n hs
    obtain ⟨hP, htable, hwf, hread⟩ := ih hl hp
    refine ⟨hP, htable.trans hb.table, hwf ∘ hb.canonical, fun k => (hread k).trans ?_⟩
    rcases eq_or_ne k n with rfl | hk
    · rw [if_neg hn, if_pos (List.mem_cons_self ..), hb.lane]
    · rw [hb.others k hk]
      simp [hk]

/-- The lane numbers of a run. -/
theorem run_nodup (first len : Nat) : ((List.range len).map fun k => first + k).Nodup :=
  List.nodup_range.map fun _ _ h => Nat.add_left_cancel h

theorem mem_run {first len n : Nat} : n ∈ (List.range len).map (fun k => first + k) ↔ first ≤ n ∧ n < first + len := by
  simp only [List.mem_map, List.mem_range]
  constructor
  · rintro ⟨k, hk, rfl⟩; omega
  · rintro ⟨h1, h2⟩; exact ⟨n - first, by omega, by omega⟩

/-- A lane after a LANE write, by the enabled fields before and after (R57 to R59). -/
def writtenLane (interval : Nat) (before after : Bool) (l : Lane) : Lane :=
  if before = after then l else if after then enabledLane interval l else disabledLane l

section Written

variable (before s : State) (n : Nat)

theorem laneWritten_same (h : (before.laneRecord n).enabled = (s.laneRecord n).enabled) : laneWritten before s n = s := by
  unfold laneWritten
  rw [h]
  split
  · next h1 h2 => exact absurd (h1.symm.trans h2) (by decide)
  · next h1 h2 => exact absurd (h1.symm.trans h2) (by decide)
  · rfl

theorem laneWritten_enables (h : (before.laneRecord n).enabled = false) (h' : (s.laneRecord n).enabled = true) :
    laneWritten before s n = enableLane n s := by
  unfold laneWritten; rw [h, h']

theorem laneWritten_disables (h : (before.laneRecord n).enabled = true) (h' : (s.laneRecord n).enabled = false) :
    laneWritten before s n = disableLane n s := by
  unfold laneWritten; rw [h, h']

theorem laneBecomes_laneWritten :
    LaneBecomes n (writtenLane s.part.pollInterval (before.laneRecord n).enabled (s.laneRecord n).enabled (s.lane n)) s
      (laneWritten before s n) := by
  cases hb : (before.laneRecord n).enabled <;> cases hs : (s.laneRecord n).enabled
  · rw [laneWritten_same _ _ _ (hb.trans hs.symm)]; exact laneBecomes_refl n s
  · rw [laneWritten_enables _ _ _ hb hs]; exact laneBecomes_enableLane n s
  · rw [laneWritten_disables _ _ _ hb hs]; exact laneBecomes_disableLane n s
  · rw [laneWritten_same _ _ _ (hb.trans hs.symm)]; exact laneBecomes_refl n s

theorem disableLane_part : (disableLane n s).part = s.part := by
  unfold disableLane
  dsimp only
  rw [setConditions_part, setLane_part, endRelease_part]

theorem laneWritten_part : (laneWritten before s n).part = s.part := by
  unfold laneWritten
  split
  · rfl
  · exact disableLane_part s n
  · rfl

/-- The lanes and records that a LANE write of a run leaves (R57 to R59, R199). -/
theorem writeLanes_lanes (first : Nat) (l : List LaneRecord) :
    (writeLanes first l s).laneTable = setRun LaneRecord.cold first l s.laneTable
      ∧ (Table.wf Lane.cold s.lanes = true → Table.wf Lane.cold (writeLanes first l s).lanes = true)
      ∧ ∀ k, (writeLanes first l s).lane k =
          writtenLane s.part.pollInterval (s.laneRecord k).enabled ((writeLanes first l s).laneRecord k).enabled
            (s.lane k) := by
  obtain ⟨-, htable, hwf, hread⟩ := foldl_lanes (step := laneWritten s)
    (f := fun n => writtenLane s.part.pollInterval (s.laneRecord n).enabled
      (Table.get LaneRecord.cold (setRun LaneRecord.cold first l s.laneTable) n).enabled)
    (P := fun u => u.laneTable = setRun LaneRecord.cold first l s.laneTable ∧ u.part = s.part)
    (fun u n ⟨ht, hp⟩ => by
      have hb := laneBecomes_laneWritten s u n
      refine ⟨?_, hb.table.trans ht, (laneWritten_part s u n).trans hp⟩
      rw [State.laneRecord, State.laneRecord, ht, hp] at hb
      exact hb)
    (run_nodup first l.length) (s := { s with laneTable := setRun LaneRecord.cold first l s.laneTable }) ⟨rfl, rfl⟩
  refine ⟨htable, hwf, fun k => (hread k).trans ?_⟩
  have hrec : (writeLanes first l s).laneRecord k =
      Table.get LaneRecord.cold (setRun LaneRecord.cold first l s.laneTable) k := by
    unfold State.laneRecord writeLanes; rw [htable]
  rw [hrec]
  split
  · rfl
  · next hk =>
    rw [mem_run] at hk
    rw [get_setRun, if_neg hk]
    exact (if_pos rfl).symm

end Written

section Shared

variable {s t : State} {n : Nat} {l : Lane}

/-! ## The relations -/

/-- An operation that touches neither lanes nor LANE records. -/
theorem lanesFit_same (h : LanesFit s) (hl : (t.lanes, t.laneTable) = (s.lanes, s.laneTable)) : LanesFit t := by
  obtain ⟨hlanes, htable⟩ := Prod.mk.inj hl
  have e : ∀ k, t.lane k = s.lane k ∧ t.laneRecord k = s.laneRecord k := fun k => by
    unfold State.lane State.laneRecord; rw [hlanes, htable]; exact ⟨rfl, rfl⟩
  refine ⟨by rw [hlanes]; exact h.canonical, fun k hk => ?_⟩
  rw [(e k).1, (e k).2]
  exact h.fits k hk

/-- One lane becomes a lane that fits. -/
theorem lanesFit_becomes (h : LanesFit s) (hb : LaneBecomes n l s t)
    (hl : n < 16 → LaneFits (s.laneRecord n).enabled (s.lane n) → LaneFits (s.laneRecord n).enabled l) : LanesFit t := by
  refine ⟨hb.canonical h.canonical, fun k hk => ?_⟩
  rw [hb.laneRecord]
  rcases eq_or_ne k n with rfl | hne
  · rw [hb.lane]; exact hl hk (h.fits k hk)
  · rw [hb.others k hne]; exact h.fits k hk

/-- A lane write that leaves state, conditions, and which timers run. -/
theorem lanesFit_setLane (h : LanesFit s) (hl : laneShape l = laneShape (s.lane n)) : LanesFit (s.setLane n l) :=
  lanesFit_becomes h (laneBecomes_setLane n l s) fun _ hf => laneFits_sameShape hf hl

/-- Every lane is changed, but for its state and conditions and which of its timers run. -/
theorem lanesFit_update (h : LanesFit s) {f : Lane → Lane} (hcold : f Lane.cold = Lane.cold)
    (hf : ∀ l, laneShape (f l) = laneShape l) (ht : t.laneTable = s.laneTable)
    (hl : t.lanes = Table.update Lane.cold f s.lanes) : LanesFit t := by
  refine ⟨by rw [hl]; exact wf_update h.canonical f, fun k hk => ?_⟩
  have hrec : t.laneRecord k = s.laneRecord k := by unfold State.laneRecord; rw [ht]
  have hlane : t.lane k = f (s.lane k) := by unfold State.lane; rw [hl]; exact get_update h.canonical hcold k
  rw [hrec, hlane]
  exact laneFits_sameShape (h.fits k hk) (hf _)

/-- Frames are sent after a change elsewhere. -/
theorem lanesFit_sends {u : State} (hst : Sends u t) (h : LanesFit s)
    (hu : (u.lanes, u.laneTable) = (s.lanes, s.laneTable) := by rfl) : LanesFit t := by
  obtain ⟨q, rfl, -⟩ := hst
  exact lanesFit_same h hu

theorem lanesFit_pays (h : LanesFit s) (hst : Pays s t) : LanesFit t :=
  lanesFit_same h (by rw [hst.lanes, hst.laneTable])

theorem foldl_lanesFit {β : Type} {f : State → β → State} (hf : ∀ u b, LanesFit u → LanesFit (f u b)) (l : List β)
    (h : LanesFit s) : LanesFit (l.foldl f s) :=
  List.foldlRecOn l f h fun u hu b _ => hf u b hu

/-! ## Shared operations -/

theorem offerEntry_lanesFit {b : EntryBody} (h : LanesFit s) : LanesFit (offerEntry b s) :=
  lanesFit_pays h (offerEntry_pays b s)

theorem takeExpiries_lanesFit (h : LanesFit s) : LanesFit (takeExpiries s) := lanesFit_pays h (takeExpiries_pays s)

theorem flagJournal_lanesFit {high full : Bool} (h : LanesFit s) : LanesFit (flagJournal high full s) :=
  lanesFit_sends (flagJournal_spec high full s) h

theorem updateJournalConditions_lanesFit {before : State} (h : LanesFit s) : LanesFit (updateJournalConditions before s) :=
  flagJournal_lanesFit h

theorem flagEvacuating_lanesFit (h : LanesFit s) : LanesFit (flagEvacuating s) :=
  lanesFit_sends (flagEvacuating_spec s) h

theorem flagCloseDone_lanesFit (h : LanesFit s) : LanesFit (flagCloseDone s) :=
  lanesFit_sends (flagCloseDone_spec s) h

/-! ## Lanes -/

theorem endExchange_lanesFit (h : LanesFit s) (hd : (s.lane n).state ≠ .disabled) : LanesFit (endExchange n s) :=
  lanesFit_becomes h (laneBecomes_endExchange n s) fun _ hf => laneFits_exchanged hf hd _

theorem goodReply_lanesFit (h : LanesFit s) : LanesFit (goodReply n s) :=
  lanesFit_becomes h (laneBecomes_goodReply n s) fun _ => laneFits_replied

theorem missedReply_lanesFit (h : LanesFit s) (hd : (s.lane n).state ≠ .disabled) : LanesFit (missedReply n s) :=
  lanesFit_becomes h (laneBecomes_missedReply n s) fun _ hf => laneFits_missed hf hd _

/-- A head event acts on a lane that is enabled and, where the event is taken, not LOST (R62, R64). -/
theorem headEvent_lanesFit {bit : Bool} {act : State → State}
    (ha : ∀ u, (u.lane n).state ≠ .disabled → LanesFit u → LanesFit (act u)) (h : LanesFit s) :
    LanesFit (headEvent n bit act s) := by
  by_cases hw : s.awaitsReply n = true
  case neg => rw [headEvent_ignored hw]; exact h
  have hd := awaitsReply_enabled hw
  have h0 := endExchange_lanesFit h hd
  by_cases hb : (s.lane n).lastBit = some bit
  · rw [headEvent_repeat hw hb]; exact goodReply_lanesFit h0
  have h1 : LanesFit (accepted n bit s) := lanesFit_setLane h0 rfl
  by_cases hs : (s.lane n).state = .lost
  · rw [headEvent_lost hw hb hs]; exact goodReply_lanesFit h1
  · rw [headEvent_new hw hb hs]
    refine ha _ ?_ (goodReply_lanesFit h1)
    rw [(laneBecomes_goodReply n (accepted n bit s)).lane, (laneBecomes_accepted n bit s).lane, repliedLane]
    rwa [if_neg (by exact hs)]

theorem sendVerdict_lanesFit {v : Verdict} {d : Nat} (h : LanesFit s) : LanesFit (sendVerdict n v d s) :=
  lanesFit_setLane h rfl

theorem openLane_lanesFit (h : LanesFit s) (hs : (s.lane n).state = .idle ∨ (s.lane n).state = .released) :
    LanesFit (openLane n s) :=
  lanesFit_becomes h (laneBecomes_openLane n s) fun _ hf => laneFits_opened hf hs _

theorem releaseLane_lanesFit {p : Option ReleasedPunch} (h : LanesFit s) (hs : (s.lane n).state = .idle) :
    LanesFit (releaseLane n p s) :=
  lanesFit_becomes h (laneBecomes_setLane n _ s) fun _ hf => laneFits_released hf hs p _

theorem endRelease_lanesFit (h : LanesFit s) (hs : (s.lane n).state = .released) : LanesFit (endRelease n .idle s) :=
  lanesFit_becomes h (laneBecomes_endRelease n .idle s) fun _ hf => laneFits_idle hf hs

theorem setConditions_lanesFit {c : LaneConditions} (h : LanesFit s)
    (hc : ∀ enabled, LaneFits enabled (s.lane n) → LaneFits enabled (flagged (s.lane n) c)) :
    LanesFit (setConditions n c s) :=
  lanesFit_becomes h (laneBecomes_setConditions n c s) fun _ => hc _

theorem refusePunch_lanesFit {c : Nat} {k : HeadKey} {r : Reason} (h : LanesFit s) :
    LanesFit (refusePunch n c k r s) := by
  unfold refusePunch
  extract_lets s1 s2 l2
  have h1 : LanesFit s1 := by
    unfold s1
    repeat' split
    · exact { h with }
    · exact h
    · exact h
  exact offerEntry_lanesFit (lanesFit_setLane (sendVerdict_lanesFit h1) rfl)

theorem musterPunch_lanesFit {c : Nat} (h : LanesFit s) : LanesFit (musterPunch n c s).1 := by
  unfold musterPunch
  split
  · exact offerEntry_lanesFit h
  · dsimp only
    split
    · exact offerEntry_lanesFit { h with }
    · exact offerEntry_lanesFit h

/-- While evacuating no punch is accepted (R87, R178). -/
theorem judge_evacuating (he : s.evac.evacuating = true) (code : Nat) (key : HeadKey) (p : ReleasedPunch) :
    s.judge n code key ≠ .accept p := by
  unfold State.judge
  rw [if_pos he]
  split <;> exact fun h => by cases h

/-- A punch is evaluated in IDLE, or where none is accepted. -/
theorem evaluatePunch_lanesFit {c : Nat} {k : HeadKey} (h : LanesFit s)
    (hs : ∀ p, s.judge n c k = .accept p → (s.lane n).state = .idle) : LanesFit (evaluatePunch n c k s) := by
  unfold evaluatePunch
  split
  · next p hp =>
    have h1 : LanesFit (stampPunch n p.worker s) := { h with }
    have h2 : LanesFit (sendVerdict n .accept (displayCode p) (stampPunch n p.worker s)) := sendVerdict_lanesFit h1
    dsimp only
    split
    · exact lanesFit_pays h2 (commitPunch_pays _ _ _ _)
    · exact releaseLane_lanesFit h2 (by simpa [sendVerdict, stampPunch] using hs p hp)
  · exact refusePunch_lanesFit h
  · exact sendVerdict_lanesFit h
  · exact sendVerdict_lanesFit (musterPunch_lanesFit h)

theorem punchTaken_lanesFit {c : Nat} {k : HeadKey} (h : LanesFit s) : LanesFit (punchTaken n c k s) := by
  unfold punchTaken
  split
  · next hs => exact evaluatePunch_lanesFit h fun _ _ => hs
  · split
    · next he => exact evaluatePunch_lanesFit h fun p hp => absurd hp (judge_evacuating he c k p)
    · exact sendVerdict_lanesFit h
  · exact sendVerdict_lanesFit h

theorem doorOpened_lanesFit (h : LanesFit s) : LanesFit (doorOpened n s) := by
  unfold doorOpened
  dsimp only
  split
  · next hs =>
    have ho := openLane_lanesFit h (.inr hs)
    split
    · exact lanesFit_pays ho (commitPunch_pays _ _ _ _)
    · exact ho
  · next hs =>
    have ho := openLane_lanesFit h (.inl hs)
    split
    · refine offerEntry_lanesFit (setConditions_lanesFit ho fun _ hf => ?_)
      exact laneFits_door hf (by rw [(laneBecomes_openLane n s).lane]; rfl) true _
    · exact ho
  · exact h

theorem doorClosed_lanesFit (h : LanesFit s) : LanesFit (doorClosed n s) := by
  by_cases hs : (s.lane n).state = .opened
  · exact lanesFit_becomes h (laneBecomes_doorClosed n s hs) fun _ hf => laneFits_closed hf hs
  · rw [doorClosed_other n s hs]; exact h

theorem tamperTaken_lanesFit {on : Bool} (h : LanesFit s) (hd : (s.lane n).state ≠ .disabled) :
    LanesFit (tamperTaken n on s) :=
  setConditions_lanesFit h fun _ hf => laneFits_tamper hf hd on

theorem setMode_lanesFit {m : LaneMode} (h : LanesFit s) : LanesFit (setMode n m s) := by
  have h1 : LanesFit (s.setLane n { s.lane n with mode := m }) := lanesFit_setLane h rfl
  unfold setMode
  dsimp only
  split
  · next hm => exact endRelease_lanesFit h1 (by simpa using hm.2)
  split
  · next hm =>
    refine lanesFit_becomes h1 (laneBecomes_setLane n _ _) fun _ hf => laneFits_heldTimer hf ?_ _
    simpa using hm.2.2
  · exact h1

/-- A LANE write: every lane acts by the enabled fields before and after (R57 to R59). -/
theorem writeLanes_lanesFit {first : Nat} {l : List LaneRecord} (h : LanesFit s) : LanesFit (writeLanes first l s) := by
  obtain ⟨-, hwf, hread⟩ := writeLanes_lanes s first l
  refine ⟨hwf h.canonical, fun k hk => ?_⟩
  have hf := h.fits k hk
  rw [hread]
  unfold writtenLane
  split
  · next e => rw [← e]; exact hf
  split
  · next hne he =>
    have hs : (s.laneRecord k).enabled = false := by simpa [he] using hne
    rw [hs] at hf
    rw [he]
    exact laneFits_enabled hf _
  · next he =>
    rw [Bool.not_eq_true] at he
    rw [he]
    exact laneFits_disabled _

/-! ## Bells and evacuation -/

theorem ringOutputs_lanesFit {m : Byte} {r : BellRequest} (h : LanesFit s) : LanesFit (ringOutputs m r s) :=
  foldl_lanesFit (f := ringOutput r) (fun _ _ hu => { hu with }) _ h

theorem fireEntry_lanesFit {time i : Nat} (h : LanesFit s) : LanesFit (fireEntry time s i) := by
  unfold fireEntry
  dsimp only
  split
  · exact ringOutputs_lanesFit h
  · exact h

theorem fireBells_lanesFit {previous new : Nat} (h : LanesFit s) : LanesFit (fireBells previous new s) :=
  foldl_lanesFit (f := fireAt) (fun _ time hu => foldl_lanesFit (f := fireEntry time) (fun _ _ => fireEntry_lanesFit) _ hu)
    _ h

theorem soundTone_lanesFit (h : LanesFit s) : LanesFit (soundTone s) :=
  foldl_lanesFit (f := fun t o => t.setArbiter o s.toneArbiter) (fun _ _ hu => { hu with }) _ h

theorem suspendClose_lanesFit (h : LanesFit s) : LanesFit (suspendClose s) := by
  rw [suspendClose_eq]; exact { h with }

theorem resumeClose_lanesFit (h : LanesFit s) : LanesFit (resumeClose s) := by
  unfold resumeClose
  split
  · exact { h with }
  · exact h

theorem evacuateLane_lanesFit (h : LanesFit s) : LanesFit (evacuateLane s n) := by
  unfold evacuateLane
  split
  · next hs => exact endRelease_lanesFit h hs
  · exact h

theorem restartHeld_lanesFit (h : LanesFit s) : LanesFit (restartHeld s n) := by
  unfold restartHeld
  split
  · next hs => exact lanesFit_becomes h (laneBecomes_setLane n _ s) fun _ hf => laneFits_heldTimer hf hs _
  · exact h

theorem buildRoll_lanesFit (h : LanesFit s) : LanesFit (buildRoll s) := lanesFit_same h rfl

theorem idleBells_lanesFit (h : LanesFit s) : LanesFit (idleBells s) := lanesFit_same h rfl

theorem startEvacuation_lanesFit {c : Cause} (h : LanesFit s) : LanesFit (startEvacuation c s) := by
  unfold startEvacuation
  extract_lets control s1 s2 s3 s4
  have h1 : LanesFit s1 := { h with }
  have h2 : LanesFit s2 := foldl_lanesFit (f := evacuateLane) (fun _ _ => evacuateLane_lanesFit) _ h1
  have h3 : LanesFit s3 := soundTone_lanesFit (buildRoll_lanesFit h2)
  exact flagEvacuating_lanesFit (offerEntry_lanesFit (suspendClose_lanesFit h3))

theorem takeCause_lanesFit {c : Cause} (h : LanesFit s) : LanesFit (takeCause c s) := by
  unfold takeCause
  split
  · exact { h with }
  · exact startEvacuation_lanesFit h

theorem takeChain_lanesFit (h : LanesFit s) : LanesFit (takeChain s) := by
  unfold takeChain
  split
  · exact takeCause_lanesFit h
  · exact h

theorem clearEvacuation_lanesFit (h : LanesFit s) : LanesFit (clearEvacuation s) := by
  unfold clearEvacuation
  extract_lets control s1 s2 s3 s4 s5
  have h2 : LanesFit s2 := { h with }
  have h3 : LanesFit s3 := foldl_lanesFit (f := restartHeld) (fun _ _ => restartHeld_lanesFit) _ h2
  have h4 : LanesFit s4 := resumeClose_lanesFit (idleBells_lanesFit h3)
  exact flagEvacuating_lanesFit (offerEntry_lanesFit (takeExpiries_lanesFit h4))

end Shared

/-! ## The blocks that answer requests -/

section Blocks

variable {s : State}

/-- A block that refuses with the state as it is, or else keeps the lanes fitting. -/
theorem refused_lanesFit {bad : Prop} [Decidable bad] {c : ReplyCode} {a : Answer} (h : LanesFit s)
    (ha : LanesFit a.state) : LanesFit (if bad then answer c s else a).state := by
  split
  · exact h
  · exact ha

theorem accepted_lanesFit {c : ReplyCode} (h : LanesFit s) : LanesFit (answer c s).state := h

theorem statusRead_lanesFit (clear : Byte) (h : LanesFit s) : LanesFit (statusRead clear s).state := by
  unfold statusRead
  split
  · exact h
  · dsimp only
    split
    · exact lanesFit_update h (f := Lane.unflagged) rfl (fun _ => rfl) rfl rfl
    · exact h

theorem alertMaskSet_lanesFit (mask enable : Byte) (h : LanesFit s) : LanesFit (alertMaskSet mask enable s).state := by
  unfold alertMaskSet
  split
  · exact h
  · exact { h with }

theorem writeRun_lanesFit (t : TableId) (first n : Nat) (records : List Byte) (h : LanesFit s) :
    LanesFit (writeRun t first n records s).state := by
  cases t <;> unfold writeRun <;> dsimp only <;> (split; case h_2 => exact h)
  · exact { h with }
  · exact { h with }
  · exact { h with }
  · exact { h with }
  · exact { h with }
  · exact writeLanes_lanesFit h
  · exact updateJournalConditions_lanesFit { h with }

theorem tableWrite_lanesFit (table first count : Byte) (records : List Byte) (h : LanesFit s) :
    LanesFit (tableWrite table first count records s).state := by
  unfold tableWrite
  split
  · exact h
  · exact refused_lanesFit h (refused_lanesFit h (writeRun_lanesFit _ _ _ _ h))

theorem tableRead_lanesFit (table first count : Byte) (h : LanesFit s) :
    LanesFit (tableRead table first count s).state := by
  unfold tableRead
  split
  · exact h
  · exact refused_lanesFit h h

theorem workerSet_lanesFit (index : Half) (status crew rateClass flags : Byte) (h : LanesFit s) :
    LanesFit (workerSet index status crew rateClass flags s).state := by
  refine refused_lanesFit h ?_
  split
  · exact h
  · exact refused_lanesFit h { h with }

theorem presenceSet_lanesFit (index : Half) (presence : Byte) (h : LanesFit s) :
    LanesFit (presenceSet index presence s).state := by
  refine refused_lanesFit h ?_
  split
  · exact h
  · exact refused_lanesFit h (offerEntry_lanesFit (lanesFit_same h rfl))

theorem badgeFind_lanesFit (code : Word) (h : LanesFit s) : LanesFit (badgeFind code s).state := by
  refine refused_lanesFit h ?_
  split <;> exact h

theorem laneMode_lanesFit (lane : Byte) (m : LaneMode) (h : LanesFit s) : LanesFit (laneMode lane m s).state :=
  refused_lanesFit h (setMode_lanesFit h)

theorem evacuationClear_lanesFit (h : LanesFit s) : LanesFit (evacuationClear s).state :=
  refused_lanesFit h (refused_lanesFit h (accepted_lanesFit (clearEvacuation_lanesFit h)))

theorem lanePulse_lanesFit (lane : Byte) (h : LanesFit s) : LanesFit (lanePulse lane s).state := by
  unfold lanePulse
  dsimp only
  split
  · exact h
  split
  · exact h
  · next hdl =>
    split
    · exact h
    · next hro =>
      refine refused_lanesFit h (refused_lanesFit h (offerEntry_lanesFit (releaseLane_lanesFit h ?_)))
      cases hs : (s.lane lane.toNat).state <;> simp_all

theorem countersLatch_lanesFit (selector : Byte) (h : LanesFit s) : LanesFit (countersLatch selector s).state := by
  unfold countersLatch
  split
  · exact h
  · exact foldl_lanesFit (f := latchLane) (fun _ _ hu => lanesFit_setLane hu rfl) _ h

theorem countersRead_lanesFit (selector : Byte) (h : LanesFit s) : LanesFit (countersRead selector s).state := by
  unfold countersRead
  split <;> exact h

theorem countersReset_lanesFit (selector : Byte) (h : LanesFit s) : LanesFit (countersReset selector s).state := by
  unfold countersReset
  split
  · exact h
  · exact foldl_lanesFit (f := resetLane) (fun _ _ hu => lanesFit_setLane hu rfl) _ h

theorem setHolding_lanesFit (holding : Table Holding) (h : LanesFit s) : LanesFit { s with holding := holding } :=
  { h with }

theorem totalsLatch_lanesFit (selector : Half) (h : LanesFit s) : LanesFit (totalsLatch selector s).state := by
  unfold totalsLatch
  dsimp only
  split
  · exact setHolding_lanesFit _ h
  split
  · exact setHolding_lanesFit _ h
  · exact h

theorem periodClose_lanesFit (crews : Half) (h : LanesFit s) : LanesFit (periodClose crews s).state := by
  refine refused_lanesFit h ?_
  split
  · exact { h with }
  · exact { h with }
  · exact h
  · exact h

theorem closeCancel_lanesFit (h : LanesFit s) : LanesFit (closeCancel s).state := by
  unfold closeCancel
  split
  · exact { h with }
  · exact h

theorem journalStatus_lanesFit (clear : Byte) (h : LanesFit s) : LanesFit (journalStatus clear s).state := by
  unfold journalStatus
  split
  · exact h
  · dsimp only
    split
    · exact { h with }
    · exact h

theorem bellSilence_lanesFit (outputs : Byte) (h : LanesFit s) : LanesFit (bellSilence outputs s).state :=
  foldl_lanesFit (f := fun t o => t.setArbiter o s.silencedArbiter) (fun _ _ hu => { hu with }) _ h

/-- Every block leaves lanes that fit. -/
theorem owningBlock_lanesFit {i : Instr} {act : State → Answer} (e : owningBlock i = some act) (h : LanesFit s) :
    LanesFit (act s).state := by
  cases i <;> cases e
  case statusRead => exact statusRead_lanesFit _ h
  case alertMask => exact alertMaskSet_lanesFit _ _ h
  case tableWrite => exact tableWrite_lanesFit _ _ _ _ h
  case tableRead => exact tableRead_lanesFit _ _ _ h
  case restart => exact { h with }
  case timeSet => exact refused_lanesFit h (takeExpiries_lanesFit { offerEntry_lanesFit h with })
  case timeSlew => exact refused_lanesFit h { h with }
  case workerSet => exact workerSet_lanesFit _ _ _ _ _ h
  case workerFree =>
    exact refused_lanesFit h (refused_lanesFit h (refused_lanesFit h (refused_lanesFit h { h with })))
  case presenceSet => exact presenceSet_lanesFit _ _ h
  case badgeAdd =>
    exact refused_lanesFit h (refused_lanesFit h (refused_lanesFit h (refused_lanesFit h (refused_lanesFit h { h with }))))
  case badgeRemove => exact refused_lanesFit h (refused_lanesFit h { h with })
  case badgeFind => exact badgeFind_lanesFit _ h
  case laneCommandNormal => exact laneMode_lanesFit _ _ h
  case laneCommandLocked => exact laneMode_lanesFit _ _ h
  case laneCommandUnlocked => exact laneMode_lanesFit _ _ h
  case laneCommandPulse => exact lanePulse_lanesFit _ h
  case laneCountersLatch => exact countersLatch_lanesFit _ h
  case laneCountersRead => exact countersRead_lanesFit _ h
  case laneCountersReset => exact countersReset_lanesFit _ h
  case totalsLatch => exact totalsLatch_lanesFit _ h
  case periodClose => exact periodClose_lanesFit _ h
  case closeCancel => exact closeCancel_lanesFit h
  case journalTrim => exact refused_lanesFit h (updateJournalConditions_lanesFit { h with })
  case journalStatus => exact journalStatus_lanesFit _ h
  case bellRing => exact refused_lanesFit h (ringOutputs_lanesFit h)
  case bellSilence => exact bellSilence_lanesFit _ h
  case evacuate => exact takeCause_lanesFit h
  case evacuationClear => exact evacuationClear_lanesFit h
  case describe => exact h
  case timeRead => exact h
  case closeStatus => exact h
  case bellStatus => exact h
  case unknownRequest => exact h
  all_goals exact refused_lanesFit h h

end Blocks

/-! ## Events -/

section Events

variable {s : State} (n : Nat)

theorem laneShape_afterMs (ms : Nat) (l : Lane) : laneShape (l.afterMs ms) = laneShape l := by
  simp [laneShape, Lane.afterMs, countDown]

theorem laneShape_afterTick (l : Lane) : laneShape l.afterTick = laneShape l := by
  simp [laneShape, Lane.afterTick, countDown]

theorem millisecond_lanesFit (h : LanesFit s) : LanesFit (millisecond s) := by
  unfold millisecond
  dsimp only
  split
  · split
    · exact lanesFit_update h (f := Lane.afterMs 1) rfl (laneShape_afterMs 1) rfl rfl
    · exact { h with }
  · exact h

theorem tick_lanesFit (fire chain : Bool) (h : LanesFit s) : LanesFit (tick fire chain s) := by
  unfold tick
  split
  · exact lanesFit_update h (f := fun l => (l.afterMs (100 - s.clock.msDivider)).afterTick) rfl
      (fun l => (laneShape_afterTick _).trans (laneShape_afterMs _ l)) rfl rfl
  split
  · exact { h with }
  · exact h

theorem secondTick_lanesFit (h : LanesFit s) : LanesFit (secondTick s) := by
  unfold secondTick
  dsimp only
  split
  · split
    · exact takeExpiries_lanesFit (fireBells_lanesFit { h with })
    · exact { h with }
  · exact h

theorem segmentEnd_lanesFit (o : Nat) (h : LanesFit s) : LanesFit (segmentEnd o s) := by
  unfold segmentEnd
  dsimp only
  repeat' split
  · exact { h with }
  all_goals exact h

theorem pollExpiry_lanesFit (h : LanesFit s) : LanesFit (pollExpiry n s) := by
  unfold pollExpiry
  dsimp only
  split
  · next hw =>
    exact lanesFit_becomes h (laneBecomes_setLane n _ s) fun _ hf => laneFits_polling hf hw.2.2.1 _ _
  · exact h

theorem headEmpty_lanesFit (h : LanesFit s) : LanesFit (headEmpty n s) := by
  unfold headEmpty
  split
  · next hw => exact goodReply_lanesFit (endExchange_lanesFit h (awaitsReply_enabled hw))
  · exact h

/-- The end of an exchange leaves the lane's state. -/
theorem endExchange_state (s : State) : ((endExchange n s).lane n).state = (s.lane n).state := by
  rw [(laneBecomes_endExchange n s).lane]; rfl

theorem replyMissed_lanesFit (h : LanesFit s) : LanesFit (replyMissed n s) := by
  unfold replyMissed
  dsimp only
  split
  · next hw =>
    obtain ⟨-, -, hd, -⟩ := hw
    exact missedReply_lanesFit (endExchange_lanesFit h hd) (by rwa [endExchange_state])
  · exact h

theorem replyBad_lanesFit (h : LanesFit s) : LanesFit (replyBad n s) := by
  unfold replyBad
  dsimp only
  split
  · next hw =>
    obtain ⟨-, -, hd, -⟩ := hw
    refine missedReply_lanesFit (lanesFit_setLane (endExchange_lanesFit h hd) rfl) ?_
    rw [setLane_same]
    exact (endExchange_state n s).trans_ne hd
  · exact h

theorem releaseExpiry_lanesFit (h : LanesFit s) : LanesFit (releaseExpiry n s) := by
  unfold releaseExpiry
  dsimp only
  split
  · next hw => exact endRelease_lanesFit h hw.2.2.1
  · exact h

theorem heldExpiry_lanesFit (h : LanesFit s) : LanesFit (heldExpiry n s) := by
  unfold heldExpiry
  dsimp only
  split
  · next hw =>
    obtain ⟨-, -, ho, -⟩ := hw
    have h1 : LanesFit (s.setLane n { s.lane n with heldTimer := none }) :=
      lanesFit_becomes h (laneBecomes_setLane n _ s) fun _ hf => laneFits_heldTimer hf ho none
    split
    · refine offerEntry_lanesFit (setConditions_lanesFit h1 fun _ hf => ?_)
      rw [setLane_same] at hf ⊢
      exact laneFits_door hf ho _ true
    · exact h1
  · exact h

theorem gatherExpiry_lanesFit (h : LanesFit s) : LanesFit (gatherExpiry s) := by
  unfold gatherExpiry
  split
  · split
    · exact offerEntry_lanesFit { h with }
    · exact flagCloseDone_lanesFit { h with }
  · exact h

theorem walkStep_lanesFit (h : LanesFit s) : LanesFit (walkStep s) := by
  unfold walkStep
  dsimp only
  split
  · have hreach := lanesFit_pays h (reachRecord_pays s.close.walkIndex (s.worker s.close.walkIndex).presence s)
    split
    · exact flagCloseDone_lanesFit (offerEntry_lanesFit { hreach with })
    · exact { hreach with }
  · exact h

theorem fireActive_lanesFit (h : LanesFit s) : LanesFit (fireActive s) := by
  unfold fireActive
  split
  · exact takeCause_lanesFit { h with }
  · exact h

theorem fireInactive_lanesFit (h : LanesFit s) : LanesFit (fireInactive s) := by
  unfold fireInactive
  split
  · exact { h with }
  · exact h

theorem chainActive_lanesFit (h : LanesFit s) : LanesFit (chainActive s) := by
  unfold chainActive
  split
  · exact takeChain_lanesFit { h with }
  · exact h

theorem chainInactive_lanesFit (h : LanesFit s) : LanesFit (chainInactive s) := by
  unfold chainInactive
  split
  · exact { h with }
  · exact h

/-! ### The two ports -/

theorem downwardReceived_lanesFit (l : List Byte) (h : LanesFit s) : LanesFit (downwardReceived l s) := by
  obtain ⟨link, e⟩ := downwardReceived_form (s := s) l
  rw [e]
  exact { h with }

theorem upwardReceived_lanesFit (l : List Byte) (h : LanesFit s) : LanesFit (upwardReceived l s) := by
  obtain ⟨link, e⟩ := upwardReceived_form (s := s) l
  rw [e]
  exact { h with }

theorem downwardSend_lanesFit (h : LanesFit s) : LanesFit (downwardSend s) := by
  unfold downwardSend
  repeat' split
  · exact { h with }
  all_goals exact h

theorem transmitFrom_lanesFit (src : UpSource) (h : LanesFit s) : LanesFit (transmitFrom src s) := by
  unfold transmitFrom
  split <;> split
  · exact { h with }
  · exact h
  · exact { h with }
  · exact h

theorem transmit_lanesFit (h : LanesFit s) : LanesFit (transmit s) := by
  unfold transmit
  repeat' split
  · exact transmitFrom_lanesFit _ h
  all_goals exact h

/-! ### Power and starts -/

theorem restartReplySent_lanesFit (h : LanesFit s) : LanesFit (restartReplySent s) := by
  unfold restartReplySent
  split
  · exact { h with }
  · exact h

theorem powerUp_lanesFit (h : LanesFit s) : LanesFit (powerUp s) := by
  unfold powerUp
  split
  · exact h
  split
  · exact { h with }
  · exact { h with }

theorem mainPowerLost_lanesFit (h : LanesFit s) : LanesFit (mainPowerLost s) := by
  unfold mainPowerLost
  split
  · exact { h with }
  · exact h

theorem retainedLost_lanesFit (h : LanesFit s) : LanesFit (retainedLost s) := by
  unfold retainedLost
  split
  · exact h
  · exact { h with }

/-- A lane of a start fits its record (R81). -/
theorem laneFits_started (interval : Nat) : LaneFits true (Lane.started interval) := by
  constructor <;> simp [Lane.started, Lane.cold, LaneConditions.clear]

theorem laneFits_cold : LaneFits false Lane.cold := by
  constructor <;> simp [Lane.cold, LaneConditions.clear]

/-- The lanes of a start are listed anew, those enabled as IDLE (R81). -/
theorem startValues_lanesFit (k : StartKind) (strap : BitVec 5) (s : State) :
    LanesFit (Machine.startValues k strap s) := by
  refine ⟨wf_map (List.pairwise_lt_range.filter _) fun _ => laneStarted_ne_cold _, fun n hn => ?_⟩
  have hlane : (Machine.startValues k strap s).lane n = _ := startedLanes_read s hn
  have hrec : (Machine.startValues k strap s).laneRecord n = s.laneRecord n := rfl
  rw [hlane, hrec]
  split
  · next he => rw [he]; exact laneFits_started _
  · next he =>
    rw [Bool.not_eq_true] at he
    rw [he]
    exact laneFits_cold

theorem restoreEvacuation_lanesFit (fire chain : Bool) (h : LanesFit s) : LanesFit (restoreEvacuation fire chain s) := by
  unfold restoreEvacuation
  extract_lets s1 s2 s3
  have h1 : LanesFit s1 := { h with }
  have h2 : LanesFit s2 := by
    unfold s2
    split
    · exact flagEvacuating_lanesFit (soundTone_lanesFit h1)
    · exact h1
  have h3 : LanesFit s3 := by
    unfold s3
    split
    · exact takeCause_lanesFit h2
    · exact h2
  exact takeChain_lanesFit h3

theorem startComplete_lanesFit (fire chain : Bool) (strap : BitVec 5) (h : LanesFit s) :
    LanesFit (startComplete fire chain strap s) := by
  unfold startComplete
  split
  · exact h
  next k _ =>
  split
  · exact flagJournal_lanesFit (restoreEvacuation_lanesFit fire chain (takeExpiries_lanesFit
      (lanesFit_same (startValues_lanesFit k strap _) rfl)))
  · exact h

/-- Every event leaves lanes that fit. -/
theorem eventEffect_lanesFit (i : Instr) (h : LanesFit s) : LanesFit (eventEffect i s) := by
  cases i
  case downwardFrameReceived => exact downwardReceived_lanesFit _ h
  case upwardFrameReceived => exact upwardReceived_lanesFit _ h
  case downwardForwardSend => exact downwardSend_lanesFit h
  case upwardTransmit => exact transmit_lanesFit h
  case restartReplySent => exact restartReplySent_lanesFit h
  case tick100ms => exact tick_lanesFit _ _ h
  case secondTick => exact secondTick_lanesFit h
  case segmentEnd => exact segmentEnd_lanesFit _ h
  case pollTimerExpiry => exact pollExpiry_lanesFit _ h
  case headEmpty => exact headEmpty_lanesFit _ h
  case headPunch => exact headEvent_lanesFit (fun _ _ => punchTaken_lanesFit) h
  case headDoorOpen => exact headEvent_lanesFit (fun _ _ => doorOpened_lanesFit) h
  case headDoorClosed => exact headEvent_lanesFit (fun _ _ => doorClosed_lanesFit) h
  case headTamperOn => exact headEvent_lanesFit (fun _ hd hu => tamperTaken_lanesFit hu hd) h
  case headTamperOff => exact headEvent_lanesFit (fun _ hd hu => tamperTaken_lanesFit hu hd) h
  case laneReplyBad => exact replyBad_lanesFit _ h
  case laneReplyMissed => exact replyMissed_lanesFit _ h
  case releaseTimerExpiry => exact releaseExpiry_lanesFit _ h
  case heldTimerExpiry => exact heldExpiry_lanesFit _ h
  case gatherTimerExpiry => exact gatherExpiry_lanesFit h
  case walkStep => exact walkStep_lanesFit h
  case fireActive => exact fireActive_lanesFit h
  case fireInactive => exact fireInactive_lanesFit h
  case chainLevelActive => exact chainActive_lanesFit h
  case chainLevelInactive => exact chainInactive_lanesFit h
  case powerUp => exact powerUp_lanesFit h
  case mainPowerLost => exact mainPowerLost_lanesFit h
  case resetInputActive => exact { h with }
  case startComplete => exact startComplete_lanesFit _ _ _ h
  case retainedDomainLost => exact retainedLost_lanesFit h
  all_goals exact h

end Events

/-- Every command leaves lanes that fit. -/
theorem effect_lanesFit (i : Instr) {s : State} (h : LanesFit s) : LanesFit (effect i s) := by
  unfold effect
  split
  · next act e => exact takeRequest_keeps (fun _ _ hu => { hu with }) i (fun _ => owningBlock_lanesFit e) h
  · exact eventEffect_lanesFit i h

end Sys2Proof.Proofs
end

section
/-! PROOF. Every step keeps every lane's running state fitting its LANE record. -/

namespace Sys2Proof.Proofs

open Machine Laws

/-- Settles O58: the idle millisecond and every command keep the lanes fitting. -/
theorem stepsKeepTheLanes : Obligations.StepsKeepTheLanes := by
  unfold Obligations.StepsKeepTheLanes
  intro s t h
  exact step_keeps (P := LanesFit) (fun _ _ hu => { hu with }) (fun _ => millisecond_lanesFit) (fun i _ => effect_lanesFit i) h

end Sys2Proof.Proofs
end

section
/-! PROOF. The replies of a lane's head (R61). -/

namespace Sys2Proof.Proofs

open Machine Laws

/-! ## The bytes of a reply's fields -/

theorem bitOf_bitByte (b : Bool) : bitOf (bitByte b) = some b := by cases b <;> rfl

theorem keyOf_keyByte (k : HeadKey) : keyOf (keyByte k) = some k := by cases k <;> rfl

/-! ## What is read from a whole reply, whatever follows -/

section Replies

variable (lane : Nat) (b c1 c2 c3 c4 d : Byte) (more : List Byte)

theorem laneReply_empty : laneReply lane (laneFrame [16#8] ++ more) = .headEmpty lane := by
  simp [laneReply, laneFrame]

theorem laneReply_punch {bit : Bool} {key : HeadKey} (hb : bitOf b = some bit) (hd : keyOf d = some key) :
    laneReply lane (laneFrame [17#8, b, c1, c2, c3, c4, d] ++ more) = .headPunch lane bit (word c1 c2 c3 c4) key := by
  refine (if_pos rfl).trans ?_
  rw [hb, hd]

theorem laneReply_door {bit opened : Bool} (hb : bitOf b = some bit) (hd : bitOf d = some opened) :
    laneReply lane (laneFrame [18#8, b, d] ++ more) =
      if opened then .headDoorOpen lane bit else .headDoorClosed lane bit := by
  refine (if_pos rfl).trans ?_
  rw [hb, hd]
  cases opened <;> rfl

theorem laneReply_tamper {bit on : Bool} (hb : bitOf b = some bit) (hd : bitOf d = some on) :
    laneReply lane (laneFrame [19#8, b, d] ++ more) =
      if on then .headTamperOn lane bit else .headTamperOff lane bit := by
  refine (if_pos rfl).trans ?_
  rw [hb, hd]
  cases on <;> rfl

end Replies

/-- Settles O5: one reading for each kind of reply, and its fields' bytes read back as the fields. -/
theorem laneReplyRoundTrip : Obligations.LaneReplyRoundTrip := by
  unfold Obligations.LaneReplyRoundTrip
  intro i bytes more h
  cases i <;> cases h
  case headEmpty lane => exact laneReply_empty lane more
  case headPunch lane bit code key =>
    have hread := laneReply_punch lane (bitByte bit) (BitVec.ofNat 8 (code.toNat / 16777216))
      (BitVec.ofNat 8 (code.toNat / 65536)) (BitVec.ofNat 8 (code.toNat / 256)) (BitVec.ofNat 8 code.toNat) (keyByte key) more
      (bitOf_bitByte bit) (keyOf_keyByte key)
    rw [word_be32] at hread
    exact hread
  case headDoorOpen lane bit => exact laneReply_door lane _ _ more (bitOf_bitByte bit) (opened := true) rfl
  case headDoorClosed lane bit => exact laneReply_door lane _ _ more (bitOf_bitByte bit) (opened := false) rfl
  case headTamperOn lane bit => exact laneReply_tamper lane _ _ more (bitOf_bitByte bit) (on := true) rfl
  case headTamperOff lane bit => exact laneReply_tamper lane _ _ more (bitOf_bitByte bit) (on := false) rfl

end Sys2Proof.Proofs
end

section
/-! SUPPORT. What the operations on one lane leave alone: `LaneMoves n l s t` says that nothing but lane `n` changes, and
`LaneAlerts n l fs s t` that the ALERT frames `fs` are offered besides. -/

namespace Sys2Proof.Proofs

open Machine Laws

/-! ## The relations -/

/-- From `s` to `t` lane `n` becomes `l` and nothing else changes. -/
structure LaneMoves (n : Nat) (l : Lane) (s t : State) : Prop extends LaneBecomes n l s t where
  form : t = { s with lanes := t.lanes }

/-- From `s` to `t` lane `n` becomes `l`, the frames `fs` are offered, and nothing else changes. -/
structure LaneAlerts (n : Nat) (l : Lane) (fs : List UpFrame) (s t : State) : Prop extends LaneBecomes n l s t where
  form : t = { s with lanes := t.lanes, link := { s.link with upQueue := t.link.upQueue } }
  alerts : Alerts s t fs

/-- The ALERT frames of new conditions at a lane `l`: one for each change flag that goes from clear to set (R77, R78). -/
def conditionFrames (s : State) (n : Nat) (l : Lane) (c : LaneConditions) : List UpFrame :=
  s.alertOf ((l.conditions.lost ^^ c.lost) && !l.changes.lost) 0 n (setClear c.lost)
    ++ s.alertOf ((l.conditions.forced ^^ c.forced) && !l.changes.forced) 1 n (setClear c.forced)
    ++ s.alertOf ((l.conditions.held ^^ c.held) && !l.changes.held) 2 n (setClear c.held)
    ++ s.alertOf ((l.conditions.tamper ^^ c.tamper) && !l.changes.tamper) 3 n (setClear c.tamper)

/-- They depend on the alert mask and the PART record alone. -/
theorem conditionFrames_congr {s t : State} (hp : t.part = s.part) (hm : t.link.alertMask = s.link.alertMask) (n : Nat)
    (l : Lane) (c : LaneConditions) : conditionFrames t n l c = conditionFrames s n l c := by
  unfold conditionFrames
  simp only [alertOf_congr hp hm]

section Moves

variable {n : Nat} {l m : Lane} {fs : List UpFrame} {s t u : State}

namespace LaneMoves

theorem clock (h : LaneMoves n l s t) : t.clock = s.clock := by rw [h.form]
theorem part (h : LaneMoves n l s t) : t.part = s.part := by rw [h.form]
theorem evac (h : LaneMoves n l s t) : t.evac = s.evac := by rw [h.form]
theorem workers (h : LaneMoves n l s t) : t.workers = s.workers := by rw [h.form]
theorem link (h : LaneMoves n l s t) : t.link = s.link := by rw [h.form]

theorem worker (h : LaneMoves n l s t) (i : Nat) : t.worker i = s.worker i := by
  unfold State.worker; rw [h.workers]

/-- What an offered entry reads stands. -/
theorem sameJournal (h : LaneMoves n l s t) : SameJournal s t := by
  rw [h.form]; exact ⟨rfl, rfl, rfl, rfl, rfl, rfl⟩

theorem trans (h1 : LaneMoves n l s t) (h2 : LaneMoves n m t u) : LaneMoves n m s u :=
  ⟨h1.toLaneBecomes.trans h2.toLaneBecomes, by rw [h2.form, h1.form]⟩

/-- What an operation makes of the lane as it finds it. -/
theorem andMakes (f : Lane → Lane) (h : LaneMoves n l s t) (hop : LaneMoves n (f (t.lane n)) t u) :
    LaneMoves n (f l) s u := by
  rw [h.lane] at hop
  exact h.trans hop

/-- Conditions are written after an operation that leaves them (R77, R78). -/
theorem setConditions (h : LaneMoves n l s t) (c : LaneConditions) :
    LaneAlerts n (flagged l c) (conditionFrames s n l c) s (setConditions n c t) := by
  have halerts : Alerts t (Machine.setConditions n c t) (conditionFrames t n (t.lane n) c) := setConditions_alerts n c t
  rw [h.lane, conditionFrames_congr h.part (by rw [h.link])] at halerts
  refine ⟨h.toLaneBecomes.setConditions c, ?_, alerts_congr halerts (by rw [h.link]) rfl⟩
  obtain ⟨q, e⟩ := setConditions_form n c t
  rw [e, h.form]
  rfl

end LaneMoves

theorem laneMoves_setLane (n : Nat) (l : Lane) (s : State) : LaneMoves n l s (s.setLane n l) :=
  ⟨laneBecomes_setLane n l s, rfl⟩

/-- A write to the lane after an operation. -/
theorem LaneMoves.setLane (f : Lane → Lane) (h : LaneMoves n l s t) : LaneMoves n (f l) s (t.setLane n (f (t.lane n))) :=
  h.andMakes f (laneMoves_setLane n _ t)

theorem laneMoves_refl (n : Nat) (s : State) : LaneMoves n (s.lane n) s s := ⟨laneBecomes_refl n s, rfl⟩

/-- The frames in other words. -/
theorem LaneAlerts.reframe {gs : List UpFrame} (h : LaneAlerts n l fs s t) (e : fs = gs) : LaneAlerts n l gs s t := e ▸ h

/-- No frame is offered: the queue stands. -/
theorem alerts_queue_nil (h : Alerts s t []) : t.link.upQueue = s.link.upQueue := by
  obtain ⟨m, hm, e⟩ := h
  rw [e, List.perm_nil.1 hm, List.take_nil, List.append_nil]

/-- One frame is offered: it enters the queue while this holds fewer than 6 (R193). -/
theorem alerts_queue_one {f : UpFrame} (h : Alerts s t [f]) :
    t.link.upQueue = if s.link.upQueue.length < 6 then s.link.upQueue ++ [f] else s.link.upQueue := by
  obtain ⟨m, hm, e⟩ := h
  rw [e, List.perm_singleton.1 hm]
  split
  · next hq =>
    obtain ⟨k, hk⟩ : ∃ k, 6 - s.link.upQueue.length = k + 1 := ⟨5 - s.link.upQueue.length, by omega⟩
    rw [hk, List.take_succ_cons, List.take_nil]
  · next hq => rw [show 6 - s.link.upQueue.length = 0 by omega, List.take_zero, List.append_nil]

theorem LaneAlerts.link_of_nil (h : LaneAlerts n l [] s t) : t.link = s.link := by
  have hq := alerts_queue_nil h.alerts
  rw [h.form, hq]

end Moves

/-! ## Alerts of single conditions -/

section Frames

variable (s : State) (n : Nat) (l : Lane)

theorem xor_true_and (a b : Bool) : ((a ^^ true) && !b) = (!b && !a) := by cases a <;> cases b <;> rfl

theorem xor_false_and (a b : Bool) : ((a ^^ false) && !b) = (!b && a) := by cases a <;> cases b <;> rfl

theorem xor_self_and (a b : Bool) : ((a ^^ a) && !b) = false := by cases a <;> rfl

theorem conditionFrames_forced : conditionFrames s n l { l.conditions with forced := true } =
    s.alertOf (!l.changes.forced && !l.conditions.forced) 1 n 1 := by
  simp only [conditionFrames, xor_self_and, xor_true_and, alertOf_false, List.nil_append, List.append_nil]
  rfl

theorem conditionFrames_held : conditionFrames s n l { l.conditions with held := true } =
    s.alertOf (!l.changes.held && !l.conditions.held) 2 n 1 := by
  simp only [conditionFrames, xor_self_and, xor_true_and, alertOf_false, List.nil_append, List.append_nil]
  rfl

theorem conditionFrames_recovered : conditionFrames s n l { l.conditions with lost := false } =
    s.alertOf (!l.changes.lost && l.conditions.lost) 0 n 0 := by
  simp only [conditionFrames, xor_self_and, xor_false_and, alertOf_false, List.append_nil]
  rfl

theorem conditionFrames_closed : conditionFrames s n l { l.conditions with forced := false, held := false } =
    s.alertOf (!l.changes.forced && l.conditions.forced) 1 n 0
      ++ s.alertOf (!l.changes.held && l.conditions.held) 2 n 0 := by
  simp only [conditionFrames, xor_self_and, xor_false_and, alertOf_false, List.nil_append, List.append_nil]
  rfl

theorem conditionFrames_tamper (on : Bool) : conditionFrames s n l { l.conditions with tamper := on } =
    s.alertOf (!l.changes.tamper && (l.conditions.tamper != on)) 3 n (if on then 1 else 0) := by
  simp only [conditionFrames, xor_self_and, alertOf_false, List.nil_append]
  rw [Bool.and_comm]
  rfl

end Frames

/-! ## Replies that count (R60, R62 to R64) -/

section Replies

variable {n : Nat} {s t : State}

theorem laneMoves_endExchange (n : Nat) (s : State) :
    LaneMoves n (exchanged s.part.pollInterval (s.lane n)) s (endExchange n s) :=
  laneMoves_setLane ..

theorem laneMoves_accepted (n : Nat) (bit : Bool) (s : State) :
    LaneMoves n { exchanged s.part.pollInterval (s.lane n) with lastBit := some bit } s (accepted n bit s) :=
  (laneMoves_endExchange n s).setLane fun l => { l with lastBit := some bit }

/-- A good reply after which the lane is not yet recovered (R63, R64). -/
theorem laneMoves_goodReply (h : ¬ ((s.lane n).state = .lost ∧ 1 ≤ (s.lane n).good)) :
    LaneMoves n (repliedLane (s.lane n)) s (goodReply n s) := by
  refine ⟨laneBecomes_goodReply n s, ?_⟩
  by_cases hs : (s.lane n).state = .lost
  · have hg : (s.lane n).good = 0 := by
      have : ¬ 1 ≤ (s.lane n).good := fun hg => h ⟨hs, hg⟩
      omega
    rw [goodReply_first n s hs hg]
    rfl
  · rw [goodReply_other n s hs]
    rfl

/-- The good reply that recovers the lane (R64). -/
theorem goodReply_recovered {l : Lane} (hm : LaneMoves n l s t) (hs : l.state = .lost) (hg : 1 ≤ l.good) :
    LaneAlerts n (recoveredLane l) (s.alertOf (!l.changes.lost && l.conditions.lost) 0 n 0) s (goodReply n t) := by
  have hl := hm.lane
  rw [goodReply_recovers n t (by rw [hl]; exact hs) (by rw [hl]; exact hg), hl]
  have h := hm.trans (laneMoves_setLane n { l with state := .idle, missed := 0, good := 0, lastBit := none } t)
  exact (h.setConditions _).reframe
    (conditionFrames_recovered s n { l with state := .idle, missed := 0, good := 0, lastBit := none })

/-- The lane when a new event is taken outside LOST: the exchange has ended, the bit is the last one, and the missed count
is 0 (R60, R62, R63). -/
def takenLane (interval : Nat) (bit : Bool) (l : Lane) : Lane :=
  { l with replyWindow := none, pollTimer := some interval, lastBit := some bit, missed := 0 }

/-- A new event outside LOST acts on a state in which nothing but its lane has changed. -/
theorem headEvent_taken {bit : Bool} (h : s.awaitsReply n = true) (hb : (s.lane n).lastBit ≠ some bit)
    (hs : (s.lane n).state ≠ .lost) (act : State → State) :
    ∃ u, LaneMoves n (takenLane s.part.pollInterval bit (s.lane n)) s u ∧ headEvent n bit act s = act u := by
  refine ⟨_, ?_, headEvent_new h hb hs⟩
  have ha := laneMoves_accepted n bit s
  have hlane := ha.lane
  have hg := ha.andMakes repliedLane (laneMoves_goodReply (n := n) (s := accepted n bit s) (by
    rw [hlane]; exact fun hc => hs hc.1))
  rw [repliedLane, if_neg (by exact hs)] at hg
  exact hg

end Replies

end Sys2Proof.Proofs
end

section
/-! PROOF. Door and tamper events (R68, R69, R71). -/

namespace Sys2Proof.Proofs

open Machine Laws

/-! ## Tamper (R71) -/

section Tamper

variable {n : Nat} {bit : Bool} {s : State}

/-- TAMPER ON or OFF outside LOST writes the condition (R71). -/
theorem exec_tamper (on : Bool) (h : s.awaitsReply n = true) (hb : (s.lane n).lastBit ≠ some bit)
    (hs : (s.lane n).state ≠ .lost) :
    ∃ t, exec (if on then .headTamperOn n bit else .headTamperOff n bit) s = .next t
      ∧ LaneAlerts n
          (flagged (takenLane s.part.pollInterval bit (s.lane n)) { (s.lane n).conditions with tamper := on })
          (s.alertOf (!(s.lane n).changes.tamper && ((s.lane n).conditions.tamper != on)) 3 n (if on then 1 else 0))
          s t := by
  obtain ⟨u, hu, e⟩ := headEvent_taken h hb hs (tamperTaken n on)
  refine ⟨tamperTaken n on u, ?_, ?_⟩
  · rw [← e]; cases on <;> rfl
  · unfold tamperTaken
    rw [hu.lane]
    exact (hu.setConditions _).reframe (conditionFrames_tamper s n (takenLane s.part.pollInterval bit (s.lane n)) on)

theorem flagged_tamper (on : Bool) (l : Lane) : flagged l { l.conditions with tamper := on } =
    { l with
      conditions := { l.conditions with tamper := on }
      changes := { l.changes with tamper := l.changes.tamper || (l.conditions.tamper != on) } } := by
  simp [flagged, LaneConditions.diff, LaneConditions.union, bne, Bool.xor]

/-- The frame of TAMPER that sets, where mask and enable allow it (R195). -/
theorem tamperFrame (hm : s.link.alertMask.getLsbD 3 = true) (ha : s.part.alertEnable = true) :
    s.alertOf true 3 n 1 = [⟨240#8, 0#8, [3#8, BitVec.ofNat 8 n, 1#8]⟩] := by
  unfold State.alertOf
  rw [hm, ha]
  rfl

end Tamper

/-- Settles O40: the one write of TAMPER ON and OFF, and its one frame by R193. -/
theorem tamperAndItsAlert : Obligations.TamperAndItsAlert := by
  unfold Obligations.TamperAndItsAlert
  refine ⟨fun n bit on s h hb hs => ?_, fun n bit s h hb hs hoff => ?_⟩
  · obtain ⟨t, e, ht⟩ := exec_tamper on h hb hs
    refine ⟨t, e, ht.form, ht.others, ?_, ht.alerts, fun hsame => ?_⟩
    · exact ht.lane.trans (flagged_tamper on (takenLane s.part.pollInterval bit (s.lane n)))
    · rw [hsame, bne_self_eq_false, Bool.and_false, alertOf_false] at ht
      exact ht.link_of_nil
  · obtain ⟨t, e, ht⟩ := exec_tamper true h hb hs
    have halerts := ht.alerts
    rw [hoff] at halerts
    refine ⟨t, e, fun hc hm ha hq => ?_, fun hno => ?_⟩
    · have hframe : Alerts s t (s.alertOf true 3 n 1) := by rw [hc] at halerts; exact halerts
      rw [tamperFrame hm ha] at hframe
      rw [alerts_queue_one hframe, if_pos hq]
    · by_cases hq : s.link.upQueue.length < 6
      · have hnone : s.alertOf (!(s.lane n).changes.tamper && (false != true)) 3 n 1 = [] := by
          unfold State.alertOf
          rw [if_neg]
          rcases hno with hno | hno | hno | hno
          · simp [hno]
          · simp only [hno, Bool.and_false, Bool.false_and, Bool.false_eq_true, not_false_eq_true]
          · simp only [hno, Bool.and_false, Bool.false_eq_true, not_false_eq_true]
          · omega
        rw [if_pos rfl, hnone] at halerts
        exact alerts_queue_nil halerts
      · obtain ⟨m, -, hm⟩ := halerts
        rw [hm, show 6 - s.link.upQueue.length = 0 by omega, List.take_zero, List.append_nil]

/-! ## Doors (R68, R69) -/

section Doors

variable {n : Nat} {bit : Bool} {s u : State} {l : Lane}

/-- DOOR OPEN at a RELEASED lane: the passage commits the punch it holds. -/
theorem doorOpened_passage {p : ReleasedPunch} (hl : (u.lane n).state = .released) (hp : (u.lane n).punch = some p) :
    doorOpened n u = commitPunch n p false (openLane n u) := by
  simp [doorOpened, hl, hp]

/-- A passage without a punch. -/
theorem doorOpened_pulse (hl : (u.lane n).state = .released) (hp : (u.lane n).punch = none) :
    doorOpened n u = openLane n u := by
  simp [doorOpened, hl, hp]

/-- DOOR OPEN at an IDLE lane outside the guard of R68. -/
theorem doorOpened_unguarded (hl : (u.lane n).state = .idle) (hg : u.guarded n = false) :
    doorOpened n u = openLane n u := by
  simp [doorOpened, hl, hg]

/-- DOOR OPEN at an IDLE lane, forced. -/
theorem doorOpened_forced (hl : (u.lane n).state = .idle) (hg : u.guarded n = true) : doorOpened n u =
    offerEntry (.door n .forced)
      (setConditions n { ((openLane n u).lane n).conditions with forced := true } (openLane n u)) := by
  simp [doorOpened, hl, hg]

theorem doorOpened_opened (hl : (u.lane n).state = .opened) : doorOpened n u = u := by
  simp [doorOpened, hl]

/-- A lane opens: it alone changes, and its held timer starts from the LANE record (R68). -/
theorem LaneMoves.openLane (h : LaneMoves n l s u) :
    LaneMoves n (openedLane (10 * (s.laneRecord n).heldTime) l) s (openLane n u) := by
  have ht : u.heldTicks n = 10 * (s.laneRecord n).heldTime := by unfold State.heldTicks; rw [h.laneRecord]
  have hm := h.andMakes (openedLane (u.heldTicks n)) (laneMoves_setLane n _ u)
  rw [← ht]
  exact hm

/-- The guard of R68 and R70 after nothing but the lane has changed. -/
theorem LaneMoves.guarded (h : LaneMoves n l s u) : u.guarded n = (!s.evac.evacuating && decide (l.mode ≠ .unlocked)) := by
  unfold State.guarded
  rw [h.evac, h.lane]

theorem flagged_forced (l : Lane) : flagged l { l.conditions with forced := true } =
    { l with
      conditions := { l.conditions with forced := true }
      changes := { l.changes with forced := l.changes.forced || !l.conditions.forced } } := by
  simp [flagged, LaneConditions.diff, LaneConditions.union]

theorem flagged_held (l : Lane) : flagged l { l.conditions with held := true } =
    { l with
      conditions := { l.conditions with held := true }
      changes := { l.changes with held := l.changes.held || !l.conditions.held } } := by
  simp [flagged, LaneConditions.diff, LaneConditions.union]

theorem flagged_closed (l : Lane) : flagged l { l.conditions with forced := false, held := false } =
    { l with
      conditions := { l.conditions with forced := false, held := false }
      changes := { l.changes with
        forced := l.changes.forced || l.conditions.forced, held := l.changes.held || l.conditions.held } } := by
  simp [flagged, LaneConditions.diff, LaneConditions.union]

end Doors

/-- Settles O39: the door's two events by the lane's state, on the state in which the exchange has ended. -/
theorem doorEventsAct : Obligations.DoorEventsAct := by
  unfold Obligations.DoorEventsAct
  refine ⟨fun n bit s h hb base hbase => ⟨fun hs => ?_, fun hs hg => ?_, fun hs he hm => ?_, fun hs => ?_⟩,
    fun n bit s h hb base hbase => ?_⟩
  · obtain ⟨u, hu, e⟩ := headEvent_taken h hb (by simp [hs]) (doorOpened n)
    have hl : (u.lane n).state = .released := by rw [hu.lane]; exact hs
    have hp : (u.lane n).punch = (s.lane n).punch := by rw [hu.lane]; rfl
    have ho := hu.openLane
    exact ⟨openLane n u, ho.form, ho.others, hbase ▸ ho.lane,
      fun hnone => congrArg Host.Outcome.next (e.trans (doorOpened_pulse hl (hp.trans hnone))),
      fun p hsome => congrArg Host.Outcome.next (e.trans (doorOpened_passage hl (hp.trans hsome)))⟩
  · obtain ⟨u, hu, e⟩ := headEvent_taken h hb (by simp [hs]) (doorOpened n)
    have hug : u.guarded n = false := by
      rw [hu.guarded]
      rcases hg with hg | hg
      · simp [hg]
      · simp [takenLane, hg]
    rw [doorOpened_unguarded (by rw [hu.lane]; exact hs) hug] at e
    have ho := hu.openLane
    exact ⟨openLane n u, congrArg Host.Outcome.next e, ho.form, ho.others, hbase ▸ ho.lane⟩
  · obtain ⟨u, hu, e⟩ := headEvent_taken h hb (by simp [hs]) (doorOpened n)
    have hug : u.guarded n = true := by rw [hu.guarded]; simp [takenLane, he, hm]
    rw [doorOpened_forced (by rw [hu.lane]; exact hs) hug] at e
    have ho := hu.openLane
    rw [ho.lane] at e
    have hc := (ho.setConditions _).reframe (conditionFrames_forced s n
      (openedLane (10 * (s.laneRecord n).heldTime) (takenLane s.part.pollInterval bit (s.lane n))))
    refine ⟨_, congrArg Host.Outcome.next e, hc.form, hc.others, ?_, hc.alerts⟩
    rw [hbase]
    exact hc.lane.trans (flagged_forced
      (openedLane (10 * (s.laneRecord n).heldTime) (takenLane s.part.pollInterval bit (s.lane n))))
  · obtain ⟨u, hu, e⟩ := headEvent_taken h hb (by simp [hs]) (doorOpened n)
    rw [doorOpened_opened (by rw [hu.lane]; exact hs)] at e
    exact ⟨u, congrArg Host.Outcome.next e, hu.form, hu.others, hbase ▸ hu.lane⟩
  · by_cases hs : (s.lane n).state = .lost
    · refine ⟨_, rfl, fun hne => absurd hs hne, fun hor => ?_, fun ho => ?_⟩
      · simp [hs] at hor
      · simp [hs] at ho
    obtain ⟨u, hu, e⟩ := headEvent_taken h hb hs (doorClosed n)
    by_cases ho : (s.lane n).state = .opened
    · have hl : (u.lane n).state = .opened := by rw [hu.lane]; exact ho
      rw [doorClosed_opened n u hl, hu.lane] at e
      have hm := hu.trans (laneMoves_setLane n
        { takenLane s.part.pollInterval bit (s.lane n) with state := .idle, heldTimer := none } u)
      have hc := (hm.setConditions _).reframe (conditionFrames_closed s n
        { takenLane s.part.pollInterval bit (s.lane n) with state := .idle, heldTimer := none })
      refine ⟨_, congrArg Host.Outcome.next e, fun _ => ⟨hc.form, hc.others⟩, fun hor => ?_, fun _ => ⟨?_, hc.alerts⟩⟩
      · simp [ho] at hor
      · rw [hbase]
        exact hc.lane.trans (flagged_closed
          { takenLane s.part.pollInterval bit (s.lane n) with state := .idle, heldTimer := none })
    · rw [doorClosed_other n u (by rw [hu.lane]; exact ho)] at e
      exact ⟨u, congrArg Host.Outcome.next e, fun _ => ⟨by rw [hu.form], hu.others⟩, fun _ => ⟨hbase ▸ hu.lane, hu.link⟩,
        fun h' => absurd h' ho⟩

end Sys2Proof.Proofs
end

section
/-! PROOF. Polls, missed and bad replies, good replies, and the loss and recovery of a lane (R60 to R64). -/

namespace Sys2Proof.Proofs

open Machine Laws

/-! ## Good replies (R62 to R64) -/

section Good

variable {n : Nat} {s : State}

/-- EMPTY, or an event that repeats the last accepted bit, counts as a good reply and does nothing else (R62). -/
theorem exec_goodReply {i : Instr} (h : s.awaitsReply n = true)
    (hi : i = .headEmpty n ∨ ∃ bit, (s.lane n).lastBit = some bit
      ∧ ((∃ code key, i = .headPunch n bit code key) ∨ i = .headDoorOpen n bit ∨ i = .headDoorClosed n bit
        ∨ i = .headTamperOn n bit ∨ i = .headTamperOff n bit)) :
    exec i s = .next (goodReply n (endExchange n s)) := by
  rcases hi with rfl | ⟨bit, hb, ⟨code, key, rfl⟩ | rfl | rfl | rfl | rfl⟩
  · exact congrArg Host.Outcome.next (if_pos h)
  all_goals exact congrArg Host.Outcome.next (headEvent_repeat h hb)

/-- A new event at a LOST lane (R64). -/
theorem exec_eventLost {i : Instr} {bit : Bool} (h : s.awaitsReply n = true) (hs : (s.lane n).state = .lost)
    (hb : (s.lane n).lastBit ≠ some bit)
    (hi : (∃ code key, i = .headPunch n bit code key) ∨ i = .headDoorOpen n bit ∨ i = .headDoorClosed n bit
      ∨ i = .headTamperOn n bit ∨ i = .headTamperOff n bit) :
    exec i s = .next (goodReply n (accepted n bit s)) := by
  rcases hi with ⟨code, key, rfl⟩ | rfl | rfl | rfl | rfl
  all_goals exact congrArg Host.Outcome.next (headEvent_lost h hb hs)

/-- The lane after a good reply outside LOST. -/
theorem repliedLane_other {l : Lane} (h : l.state ≠ .lost) : repliedLane l = { l with missed := 0 } := if_neg h

/-- The LOST lane after its first good reply. -/
theorem repliedLane_first {l : Lane} (h : l.state = .lost) (hg : l.good = 0) :
    repliedLane l = { l with missed := 0, good := 1 } := by
  simp [repliedLane, h, hg]

/-- The lane after its recovery. -/
theorem recoveredLane_eq (l : Lane) : recoveredLane l =
    { l with
      state := .idle, missed := 0, good := 0, lastBit := none
      conditions := { l.conditions with lost := false }
      changes := { l.changes with lost := l.changes.lost || l.conditions.lost } } := by
  simp [recoveredLane, flagged, LaneConditions.diff, LaneConditions.union]

end Good

/-- Settles O35: what a good reply does to the lane once the exchange has ended. -/
theorem goodRepliesCount : Obligations.GoodRepliesCount := by
  unfold Obligations.GoodRepliesCount
  refine ⟨fun n s i h hi => ?_, fun n s i bit h hs hb hi => ?_⟩
  · have he := exec_goodReply h hi
    have hx := laneMoves_endExchange n s
    refine ⟨fun hs => ?_, fun hs hg => ?_, fun hs hg => ?_⟩
    · have hm := hx.andMakes repliedLane (laneMoves_goodReply (by rw [hx.lane]; exact fun hc => hs hc.1))
      exact ⟨_, he, hm.form, hm.others, hm.lane.trans (repliedLane_other hs)⟩
    · have hm := hx.andMakes repliedLane (laneMoves_goodReply (by rw [hx.lane]; simp [exchanged, hg]))
      exact ⟨_, he, hm.form, hm.others, hm.lane.trans (repliedLane_first hs hg)⟩
    · have hm := goodReply_recovered hx hs hg.ge
      exact ⟨_, he, hm.form, hm.others, hm.lane.trans (recoveredLane_eq _), hm.alerts⟩
  · have he := exec_eventLost h hs hb hi
    have hx := laneMoves_accepted n bit s
    by_cases hg : (s.lane n).good = 0
    · have hm := hx.andMakes repliedLane (laneMoves_goodReply (by rw [hx.lane]; simp [exchanged, hg]))
      exact ⟨_, he, by rw [hm.form], hm.others, fun _ => ⟨hm.link, hm.lane.trans (repliedLane_first hs hg)⟩,
        fun hg1 => absurd (hg.symm.trans hg1) (by decide)⟩
    · have hm := goodReply_recovered hx hs (Nat.one_le_iff_ne_zero.2 hg)
      exact ⟨_, he, hm.form, hm.others, fun hg0 => absurd hg0 hg,
        fun _ => ⟨hm.lane.trans (recoveredLane_eq _), hm.alerts⟩⟩

/-! ## Missed and bad replies (R60, R61, R63) -/

/-- The lane when a missed or bad reply is counted: the exchange has ended, and a bad reply is a line error. -/
def missCounted (interval : Nat) (bad : Bool) (l : Lane) : Lane :=
  { exchanged interval l with lineErrors := if bad then bump l.lineErrors else l.lineErrors }

section Missed

variable {n : Nat} {s u : State} {l : Lane}

/-- A poll timer that has run out (R60). -/
theorem pollExpiry_sends (hr : s.running = true) (hn : n < 16) (hd : (s.lane n).state ≠ .disabled)
    (hp : (s.lane n).pollTimer = some 0) : pollExpiry n s =
      s.setLane n
        { s.lane n with
          pollTimer := none, replyWindow := some (s.laneRecord n).window, line := some (.poll (s.lane n).lastBit) } :=
  if_pos ⟨hr, hn, hd, hp⟩

/-- A missed or bad reply is a missed reply of a state in which the exchange has ended. -/
theorem exec_missed (bad : Bool) (hr : s.running = true) (hn : n < 16) (hd : (s.lane n).state ≠ .disabled)
    (hw : if bad then (s.lane n).replyWindow.isSome = true else (s.lane n).replyWindow = some 0) :
    ∃ u, LaneMoves n (missCounted s.part.pollInterval bad (s.lane n)) s u
      ∧ exec (if bad then .laneReplyBad n else .laneReplyMissed n) s = .next (missedReply n u) := by
  have hx := laneMoves_endExchange n s
  cases bad
  · exact ⟨_, hx, congrArg Host.Outcome.next (if_pos ⟨hr, hn, hd, hw⟩)⟩
  · exact ⟨_, hx.setLane fun l => { l with lineErrors := bump l.lineErrors },
      congrArg Host.Outcome.next (if_pos ⟨hr, hn, hd, hw⟩)⟩

/-- A missed reply of a LOST lane, or below the loss threshold (R63). -/
theorem laneMoves_missedReply
    (h : (s.lane n).state = .lost ∨ min ((s.lane n).missed + 1) 255 < s.lossThreshold) :
    LaneMoves n (missedLane s.lossThreshold (s.lane n)) s (missedReply n s) := by
  refine ⟨laneBecomes_missedReply n s, ?_⟩
  unfold missedReply
  dsimp only
  split
  · rfl
  · next hs => rw [if_neg (by have := h.resolve_left hs; omega)]; rfl

theorem missedLane_kept {threshold : Nat} (h : l.state = .lost ∨ min (l.missed + 1) 255 < threshold) :
    missedLane threshold l =
      { l with missed := min (l.missed + 1) 255, good := if l.state = .lost then 0 else l.good } := by
  unfold missedLane
  split
  · rfl
  · next hs => rw [if_neg (by have := h.resolve_left hs; omega)]

/-- The missed reply that reaches the threshold (R63). -/
theorem missedReply_loses (hs : (s.lane n).state ≠ .lost) (h : s.lossThreshold ≤ min ((s.lane n).missed + 1) 255) :
    missedReply n s = loseLane n (s.setLane n { s.lane n with missed := min ((s.lane n).missed + 1) 255 }) := by
  unfold missedReply
  dsimp only
  rw [if_neg hs, if_pos (by exact h)]

/-! ### Entry to LOST -/

/-- The state after the release of a lane, if it is in one, has given up its punch (R63, R75). -/
def endedRelease (n : Nat) (s : State) : State := if (s.lane n).state = .released then s.gaveUp n else s

theorem endedRelease_form (n : Nat) (s : State) : ∃ j c q, endedRelease n s =
    { s with journal := j, changes := c, link := { s.link with upQueue := q } } := by
  unfold endedRelease
  split
  · exact gaveUp_form s n
  · exact ⟨_, _, _, rfl⟩

/-- Entry to LOST after nothing but the lane has changed: the lane leaves its state, with the journal, its change flags and
the queue those of the punch given up; then its conditions are written. -/
theorem loseLane_given (h : LaneMoves n l s u) (hs : l.state = (s.lane n).state) (hp : l.punch = (s.lane n).punch) :
    ∃ v, LaneBecomes n (leftForLost l) s v
      ∧ v = withJournalOf { s with lanes := v.lanes } (endedRelease n s)
      ∧ loseLane n u = setConditions n (lostConditions l.state l.conditions) v := by
  have kept : ∀ {k : Lane} {v : State}, LaneMoves n k s v → (s.lane n).state ≠ .released →
      v = withJournalOf { s with lanes := v.lanes } (endedRelease n s) := by
    intro k v hv hne
    rw [endedRelease, if_neg hne, hv.form]
    rfl
  unfold loseLane leftForLost
  dsimp only
  rw [h.lane]
  cases hl : l.state
  case released =>
    have hb := (h.toLaneBecomes.andMakes (fun l => released l .lost) (laneBecomes_endRelease n .lost u)).setLane
      fun l => { l with good := 0 }
    refine ⟨_, hb, ?_, by rw [hb.lane]; rfl⟩
    rw [endRelease_gaveUp n .lost s h.sameJournal (by rw [h.lane]; exact hp), endedRelease, if_pos (hs.symm.trans hl),
      h.form]
    rfl
  case opened =>
    have hm := (h.trans (laneMoves_setLane n { l with state := .lost, heldTimer := none } u)).setLane
      fun l => { l with good := 0 }
    exact ⟨_, hm.toLaneBecomes, kept hm (by rw [← hs, hl]; decide), by rw [hm.lane]⟩
  all_goals
    have hm := (h.trans (laneMoves_setLane n { l with state := .lost } u)).setLane fun l => { l with good := 0 }
    exact ⟨_, hm.toLaneBecomes, kept hm (by rw [← hs, hl]; decide), by rw [hm.lane]⟩

theorem leftForLost_flags (l : Lane) : (leftForLost l).conditions = l.conditions ∧ (leftForLost l).changes = l.changes := by
  unfold leftForLost
  split <;> exact ⟨rfl, rfl⟩

/-- The frames of the conditions at entry to LOST. -/
theorem conditionFrames_lost (s : State) (n : Nat) (l : Lane) :
    conditionFrames s n (leftForLost l) (lostConditions l.state l.conditions) =
      s.alertOf (!l.changes.lost && !l.conditions.lost) 0 n 1
        ++ s.alertOf (decide (l.state = .opened) && !l.changes.forced && l.conditions.forced) 1 n 0
        ++ s.alertOf (decide (l.state = .opened) && !l.changes.held && l.conditions.held) 2 n 0 := by
  obtain ⟨hc, hf⟩ := leftForLost_flags l
  unfold conditionFrames
  rw [hc, hf]
  by_cases ho : l.state = .opened <;>
    simp [lostConditions, ho, alertOf_false, setClear, Bool.and_comm]

/-- The lane after entry to LOST, item by item. -/
theorem lostLane_changes (l : Lane) : (lostLane l).changes =
    { l.changes with
      lost := l.changes.lost || !l.conditions.lost
      forced := l.changes.forced || (decide (l.state = .opened) && l.conditions.forced)
      held := l.changes.held || (decide (l.state = .opened) && l.conditions.held) } := by
  obtain ⟨hc, hf⟩ := leftForLost_flags l
  unfold lostLane flagged
  dsimp only
  rw [hc, hf]
  by_cases ho : l.state = .opened <;> simp [lostConditions, ho, LaneConditions.diff, LaneConditions.union]

theorem lostLane_conditions (l : Lane) : (lostLane l).conditions = lostConditions l.state l.conditions := rfl

/-- What every lane has in LOST after its loss, and what stands. -/
theorem lostLane_items (l : Lane) : (lostLane l).state = .lost ∧ (lostLane l).good = 0 ∧ (lostLane l).missed = l.missed
    ∧ (lostLane l).lineErrors = l.lineErrors ∧ (lostLane l).replyWindow = l.replyWindow
    ∧ (lostLane l).pollTimer = l.pollTimer := by
  unfold lostLane flagged leftForLost
  cases l.state <;> exact ⟨rfl, rfl, rfl, rfl, rfl, rfl⟩

theorem lostLane_opened (h : l.state = .opened) : (lostLane l).heldTimer = none := by
  simp [lostLane, flagged, leftForLost, h]

theorem lostLane_released (h : l.state = .released) : (lostLane l).releaseTimer = none ∧ (lostLane l).punch = none := by
  simp [lostLane, flagged, leftForLost, h, released]

/-- The loss of a lane by a missed or bad reply, on a state in which nothing but its exchange and its counts have changed. -/
theorem loseLane_spec (h : LaneMoves n l s u) (hs : l.state = (s.lane n).state) (hp : l.punch = (s.lane n).punch)
    (hc : l.conditions = (s.lane n).conditions) (hf : l.changes = (s.lane n).changes) :
    LaneBecomes n (lostLane l) s (loseLane n u)
      ∧ loseLane n u = { s with
          lanes := (loseLane n u).lanes, journal := (endedRelease n s).journal, changes := (endedRelease n s).changes
          link := { s.link with upQueue := (loseLane n u).link.upQueue } }
      ∧ Alerts (endedRelease n s) (loseLane n u)
          ((endedRelease n s).alertOf (!(s.lane n).changes.lost && !(s.lane n).conditions.lost) 0 n 1
            ++ (endedRelease n s).alertOf
              (decide ((s.lane n).state = .opened) && !(s.lane n).changes.forced && (s.lane n).conditions.forced) 1 n 0
            ++ (endedRelease n s).alertOf
              (decide ((s.lane n).state = .opened) && !(s.lane n).changes.held && (s.lane n).conditions.held) 2 n 0) := by
  obtain ⟨v, hv, hform, e⟩ := loseLane_given h hs hp
  obtain ⟨j, c, q, hended⟩ := endedRelease_form n s
  have halerts : Alerts v _ (conditionFrames v n (v.lane n) _) :=
    setConditions_alerts n (lostConditions l.state l.conditions) v
  rw [hv.lane, conditionFrames_congr (s := endedRelease n s) (by rw [hform, hended]; rfl) (by rw [hform, hended]; rfl),
    conditionFrames_lost, ← e, hs, hc, hf] at halerts
  refine ⟨e ▸ hv.setConditions _, ?_, alerts_congr halerts (by rw [hform]; rfl) rfl⟩
  obtain ⟨p, hp⟩ := setConditions_form n (lostConditions l.state l.conditions) v
  rw [e, hp, hform]
  rfl

theorem endedRelease_next {p : ReleasedPunch} (hs : (s.lane n).state = .released) (hp : (s.lane n).punch = some p) :
    (endedRelease n s).journal.next = s.journal.next + 1 := by
  rw [endedRelease, if_pos hs, State.gaveUp, hp]
  exact (congrArg Journal.next (offerEntry_journal _ s)).trans (appended_next _ s)

end Missed

/-- Settles O34: the poll, the missed reply that keeps the lane, and the one that loses it. -/
theorem pollsAndMissedReplies : Obligations.PollsAndMissedReplies := by
  unfold Obligations.PollsAndMissedReplies
  refine ⟨fun n s hr hn hd hp => ?_, fun n bad s hr hn hd hw hbelow => ?_, fun n bad s hr hn hs hw hreach => ?_⟩
  · have hm := laneMoves_setLane n
      { s.lane n with
        pollTimer := none, replyWindow := some (s.laneRecord n).window, line := some (.poll (s.lane n).lastBit) } s
    exact ⟨_, congrArg Host.Outcome.next (pollExpiry_sends hr hn hd hp), hm.form, hm.others, hm.lane⟩
  · obtain ⟨u, hu, e⟩ := exec_missed bad hr hn hd hw
    have hbelow' : (missCounted s.part.pollInterval bad (s.lane n)).state = .lost
        ∨ min ((missCounted s.part.pollInterval bad (s.lane n)).missed + 1) 255 < u.lossThreshold := by
      unfold State.lossThreshold; rw [hu.part]; exact hbelow
    have hm := hu.andMakes (missedLane u.lossThreshold) (laneMoves_missedReply (by rw [hu.lane]; exact hbelow'))
    exact ⟨_, e, hm.form, hm.others, hm.lane.trans (missedLane_kept hbelow')⟩
  · have hlost : (s.lane n).state ≠ .lost := by rcases hs with hs | hs | hs <;> simp [hs]
    obtain ⟨u, hu, e⟩ := exec_missed bad hr hn (by rcases hs with hs | hs | hs <;> simp [hs]) hw
    have hreach' : u.lossThreshold ≤ min ((u.lane n).missed + 1) 255 := by
      unfold State.lossThreshold; rw [hu.part, hu.lane]; exact hreach
    rw [missedReply_loses (by rw [hu.lane]; exact hlost) hreach'] at e
    have hm := hu.setLane fun l => { l with missed := min (l.missed + 1) 255 }
    obtain ⟨hb, hform, halerts⟩ := loseLane_spec hm rfl rfl rfl rfl
    generalize loseLane n _ = t at e hb hform halerts
    obtain ⟨hstate, hgood, hmissed, herrors, hwin, hpoll⟩ := lostLane_items
      { missCounted s.part.pollInterval bad (s.lane n) with
        missed := min ((missCounted s.part.pollInterval bad (s.lane n)).missed + 1) 255 }
    have hjournal : t.journal = (endedRelease n s).journal := by rw [hform]
    have hchanges : t.changes = (endedRelease n s).changes := by rw [hform]
    refine ⟨t, e, ?_, hb.others, ?_⟩
    · rw [hjournal, hchanges]; exact hform
    rw [hb.lane]
    refine ⟨hstate, hgood, hmissed, herrors, hwin, hpoll, rfl, rfl, lostLane_changes _, fun v hv => ?_, fun ho => ?_,
      fun hrel => ?_, fun p hrel hp => ?_, fun hne => ?_, by rw [hform], by rw [hform], by rw [hform], by rw [hform]⟩
    · obtain rfl : v = endedRelease n s := by
        rw [hv]
        unfold endedRelease State.gaveUp
        cases (s.lane n).state <;> cases (s.lane n).punch <;> rfl
      exact ⟨hjournal, hchanges, halerts⟩
    · refine ⟨lostLane_opened ho, ?_, ?_⟩ <;> simp [lostLane_conditions, lostConditions, missCounted, exchanged, ho]
    · exact lostLane_released hrel
    · rw [hjournal]; exact endedRelease_next hrel hp
    · rw [hjournal, endedRelease, if_neg hne]

end Sys2Proof.Proofs
end

section
/-! PROOF. The lane's timers and the release output (R67, R70, R74), LANE COMMAND (R72, R73) and LANE COUNTERS (R80). -/

namespace Sys2Proof.Proofs

open Machine Laws

/-! ## The timers and the release output -/

section Timers

variable {n : Nat} {s : State}

theorem releaseExpiry_ends (hr : s.running = true) (hn : n < 16) (hs : (s.lane n).state = .released)
    (ht : (s.lane n).releaseTimer = some 0) : releaseExpiry n s = endRelease n .idle s :=
  if_pos ⟨hr, hn, hs, ht⟩

/-- The held timer's expiry outside the guard of R70. -/
theorem heldExpiry_unguarded (hr : s.running = true) (hn : n < 16) (hs : (s.lane n).state = .opened)
    (ht : (s.lane n).heldTimer = some 0) (hg : s.guarded n = false) :
    heldExpiry n s = s.setLane n { s.lane n with heldTimer := none } := by
  refine (if_pos ⟨hr, hn, hs, ht⟩).trans ?_
  rw [hg]
  rfl

/-- The held timer's expiry with HELD (R70). -/
theorem heldExpiry_held (hr : s.running = true) (hn : n < 16) (hs : (s.lane n).state = .opened)
    (ht : (s.lane n).heldTimer = some 0) (hg : s.guarded n = true) :
    heldExpiry n s = offerEntry (.door n .held)
      (setConditions n { (s.lane n).conditions with held := true } (s.setLane n { s.lane n with heldTimer := none })) := by
  refine (if_pos ⟨hr, hn, hs, ht⟩).trans ?_
  rw [hg]
  rfl

theorem releaseOutput_iff (hr : s.running = true) : s.releaseOutput n = true ↔
    (s.laneRecord n).enabled = true
      ∧ ((s.lane n).state = .released ∨ (s.lane n).mode = .unlocked ∨ s.evac.evacuating = true
        ∨ ((s.lane n).state = .lost ∧ (s.laneRecord n).fail = .opens)) := by
  simp [State.releaseOutput, hr, or_assoc]

end Timers

/-- Settles O41: the two expiries by what the lane holds and by the guard, and the release output. -/
theorem laneTimersExpire : Obligations.LaneTimersExpire := by
  unfold Obligations.LaneTimersExpire
  refine ⟨fun n s hr hn hs ht => ?_, fun n s hr hn hs ht => ⟨fun hg => ?_, fun he hm => ?_⟩,
    fun s n hr => releaseOutput_iff hr⟩
  · have e := releaseExpiry_ends hr hn hs ht
    have hm := laneMoves_setLane n (released (s.lane n) .idle) s
    refine ⟨_, hm.form, hm.others, hm.lane, fun hp => ?_, fun p hp => ?_⟩
    · exact congrArg Host.Outcome.next (e.trans (endRelease_none n .idle s hp))
    · refine congrArg Host.Outcome.next ((e.trans (endRelease_some n .idle s hp)).trans ?_)
      rw [punchUnused, punchBody_unused]
      rfl
  · have hgf : s.guarded n = false := by
      rcases hg with hg | hg <;> simp [State.guarded, hg]
    have hm := laneMoves_setLane n { s.lane n with heldTimer := none } s
    exact ⟨_, congrArg Host.Outcome.next (heldExpiry_unguarded hr hn hs ht hgf), hm.form, hm.others, hm.lane⟩
  · have hgt : s.guarded n = true := by simp [State.guarded, he, hm]
    have hc := ((laneMoves_setLane n { s.lane n with heldTimer := none } s).setConditions _).reframe
      (conditionFrames_held s n { s.lane n with heldTimer := none })
    exact ⟨_, congrArg Host.Outcome.next (heldExpiry_held hr hn hs ht hgt), hc.form, hc.others,
      hc.lane.trans (flagged_held { s.lane n with heldTimer := none }), hc.alerts⟩

/-! ## LANE COMMAND (R72, R73) -/

section Command

variable {n : Nat} {m : LaneMode} {s : State}

/-- LOCKED ends a release (R72). -/
theorem setMode_locks (hm : m = .locked) (hs : (s.lane n).state = .released) :
    setMode n m s = endRelease n .idle (s.setLane n { s.lane n with mode := m }) :=
  if_pos ⟨hm, hs⟩

/-- A change from UNLOCKED restarts the held timer of an OPEN lane (R72). -/
theorem setMode_restarts (hu : (s.lane n).mode = .unlocked) (hm : m ≠ .unlocked) (hs : (s.lane n).state = .opened) :
    setMode n m s =
      (s.setLane n { s.lane n with mode := m }).setLane n
        { (s.setLane n { s.lane n with mode := m }).lane n with heldTimer := some (s.heldTicks n) } := by
  refine (if_neg ?_).trans (if_pos ⟨hu, hm, hs⟩)
  rintro ⟨-, hr⟩
  rw [hs] at hr
  cases hr

/-- Any other mode command sets the mode alone (R72). -/
theorem setMode_plain (h1 : ¬ (m = .locked ∧ (s.lane n).state = .released))
    (h2 : ¬ ((s.lane n).mode = .unlocked ∧ m ≠ .unlocked ∧ (s.lane n).state = .opened)) :
    setMode n m s = s.setLane n { s.lane n with mode := m } :=
  (if_neg h1).trans (if_neg h2)

theorem setMode_others {k : Nat} (hk : k ≠ n) : (setMode n m s).lane k = s.lane k := by
  unfold setMode
  dsimp only
  split
  · rw [endRelease_lane, if_neg hk, setLane_ne _ _ _ _ hk]
  split
  · rw [setLane_ne _ _ _ _ hk, setLane_ne _ _ _ _ hk]
  · exact setLane_ne _ _ _ _ hk

/-- The three mode commands are answered as `laneMode` answers. -/
theorem exec_laneMode {tag lane : Byte} {i : Instr} {c : ReplyCode} {u : State}
    (hi : (i = .laneCommandNormal tag lane ∧ m = .normal) ∨ (i = .laneCommandLocked tag lane ∧ m = .locked)
      ∨ (i = .laneCommandUnlocked tag lane ∧ m = .unlocked))
    (h : Ready i s) (hact : laneMode lane m s.taken = answer c u) : exec i s = .next (u.reply 48#8 tag c []) := by
  rcases hi with ⟨rfl, rfl⟩ | ⟨rfl, rfl⟩ | ⟨rfl, rfl⟩
  all_goals exact congrArg Host.Outcome.next (request_ready h rfl hact)

theorem exec_lanePulse {tag lane : Byte} {c : ReplyCode} {u : State} (h : Ready (.laneCommandPulse tag lane) s)
    (hact : lanePulse lane s.taken = answer c u) :
    exec (.laneCommandPulse tag lane) s = .next (u.reply 48#8 tag c []) :=
  congrArg Host.Outcome.next (request_ready h rfl hact)

/-- PULSE at one of the 16 lanes, by the rows of the table of R73. -/
theorem lanePulse_row {lane : Byte} (hn : n = lane.toNat) (h : n ≤ 15) : lanePulse lane s =
    if (s.lane n).state = .disabled ∨ (s.lane n).state = .lost then answer .notPermitted s
    else if (s.lane n).state = .released ∨ (s.lane n).state = .opened then answer .busy s
    else if (s.lane n).mode = .unlocked then answer .notPermitted s
    else if s.evac.evacuating then answer .busy s
    else answer .ok (offerEntry (.door n .manualPulse) (releaseLane n none s)) := by
  subst hn
  exact if_neg (by omega)

end Command

/-- Settles O32: the block's answer in each case, as the reply of a ready request. -/
theorem laneCommandsAct : Obligations.LaneCommandsAct := by
  unfold Obligations.LaneCommandsAct
  refine ⟨fun tag lane s i m n hi h hn => ⟨fun hbad => ?_, fun hgood => ?_⟩,
    fun tag lane s n h hn => ⟨fun hbad => ?_, fun hgood => ?_⟩⟩
  · exact exec_laneMode hi h (if_pos (hn ▸ hbad))
  · refine ⟨setMode n m s.taken, exec_laneMode hi h ?_, fun k hk => setMode_others hk, fun hm hs => ?_,
      fun hu hm hs => ?_, fun h1 h2 => ?_⟩
    · subst hn; exact if_neg (by omega)
    · have hset := laneMoves_setLane n { s.taken.lane n with mode := m } s.taken
      have hlane := (hset.toLaneBecomes.andMakes (fun l => released l .idle)
        (laneBecomes_endRelease n .idle (s.taken.setLane n { s.taken.lane n with mode := m }))).lane
      rw [setMode_locks (s := s.taken) hm hs]
      refine ⟨?_, by rw [hlane, hm]; rfl⟩
      obtain ⟨j, c, q, hgave⟩ := gaveUp_form s n
      rw [endRelease_gaveUp n .idle s (t := s.taken.setLane n { s.taken.lane n with mode := m })
        ⟨rfl, rfl, rfl, rfl, rfl, rfl⟩ (by rw [setLane_same]; rfl), hgave]
      rfl
    · have hset := (laneMoves_setLane n { s.taken.lane n with mode := m } s.taken).setLane
        fun l => { l with heldTimer := some (s.taken.heldTicks n) }
      rw [setMode_restarts (s := s.taken) hu hm hs]
      exact ⟨hset.form, hset.lane⟩
    · have hset := laneMoves_setLane n { s.taken.lane n with mode := m } s.taken
      rw [setMode_plain (s := s.taken) h1 h2]
      exact ⟨hset.form, hset.lane⟩
  · exact exec_lanePulse h (if_pos (hn ▸ hbad))
  · have hrow := lanePulse_row (s := s.taken) hn hgood
    refine ⟨fun hs => ?_, fun hs => ?_, fun hs hm => ?_, fun hs hm he => ?_, fun hs hm he => ?_⟩
    · exact exec_lanePulse h (hrow.trans (if_pos hs))
    · refine exec_lanePulse h (hrow.trans ((if_neg ?_).trans (if_pos hs)))
      rcases hs with hs | hs <;> simp [hs]
    · exact exec_lanePulse h (hrow.trans (by simp [hs, hm]))
    · exact exec_lanePulse h (hrow.trans (by simp [hs, hm, he]))
    · have hset := laneMoves_setLane n
        { s.taken.lane n with
          state := .released, punch := none, releaseTimer := some (s.taken.releaseTicks n) } s.taken
      refine ⟨_, exec_lanePulse h (hrow.trans ?_), hset.form, hset.others, hset.lane⟩
      simp [hs, hm, he, releaseLane]

/-! ## LANE COUNTERS (R80) -/

section Counters

variable {s : State} {sel : Byte}

theorem selectedLanes_none (h : 15 < sel.toNat) (hall : sel ≠ 255#8) : selectedLanes sel = none := by
  simp [selectedLanes, hall, h]

/-- The lanes that a selector names. -/
theorem selectedLanes_some (h : sel.toNat ≤ 15 ∨ sel = 255#8) :
    ∃ l, selectedLanes sel = some l ∧ l.Nodup ∧ ∀ n, n ∈ l ↔ n < 16 ∧ (sel.toNat = n ∨ sel = 255#8) := by
  rcases h with h | rfl
  · have hall : sel ≠ 255#8 := by rintro rfl; exact absurd h (by decide)
    refine ⟨[sel.toNat], by simp [selectedLanes, h], List.nodup_singleton _, fun n => ?_⟩
    simp only [List.mem_singleton, hall, or_false]
    omega
  · exact ⟨laneNumbers, rfl, List.nodup_range, fun n => by simp [laneNumbers, Config.laneCount]⟩

/-- One write at each lane of a list, from what that lane reads. -/
theorem foldl_setLane (f : Lane → Lane) {l : List Nat} (hl : l.Nodup) (s : State) :
    l.foldl (fun u n => u.setLane n (f (u.lane n))) s =
        { s with lanes := (l.foldl (fun u n => u.setLane n (f (u.lane n))) s).lanes }
      ∧ ∀ k, (l.foldl (fun u n => u.setLane n (f (u.lane n))) s).lane k = if k ∈ l then f (s.lane k) else s.lane k := by
  obtain ⟨hP, -, -, hread⟩ := foldl_lanes (step := fun u n => u.setLane n (f (u.lane n))) (f := fun _ => f)
    (P := fun u => u = { s with lanes := u.lanes })
    (fun u n hu => ⟨laneBecomes_setLane n _ u, by rw [hu]; rfl⟩) hl (s := s) rfl
  exact ⟨hP, hread⟩

/-- LANE COUNTERS is answered as its block answers. -/
theorem exec_counters {i : Instr} {tag : Byte} {payload data : List Byte} {act : State → Answer} {u : State}
    {c : ReplyCode} (hi : owningBlock i = some act) (he : encodeRequest i = some ⟨false, 49#8, tag, payload⟩)
    (h : Ready i s) (hact : act s.taken = ⟨u, c, data⟩) : exec i s = .next (u.reply 49#8 tag c data) := by
  rw [exec_eq, effect, hi]
  exact congrArg Host.Outcome.next (request_ready h he hact)

end Counters

/-- Settles O33: the selector's check, and the one write of LATCH and RESET at each selected lane. -/
theorem laneCountersAct : Obligations.LaneCountersAct := by
  unfold Obligations.LaneCountersAct
  refine fun tag sel s => ⟨fun hlow hall => ?_, fun hsel => ?_⟩
  · have hnone := selectedLanes_none hlow hall
    refine ⟨fun h => exec_counters rfl rfl h ?_, fun h => exec_counters rfl rfl h ?_, fun h => exec_counters rfl rfl h ?_⟩
    · simp only [countersLatch, hnone]; rfl
    · simp only [countersRead, hnone]; rfl
    · simp only [countersReset, hnone]; rfl
  · obtain ⟨l, hl, hnodup, hmem⟩ := selectedLanes_some hsel
    refine ⟨fun h => ?_, fun h => ?_, fun h => ?_⟩
    · obtain ⟨hform, hread⟩ := foldl_setLane
        (fun l => { l with lineErrorsCopy := l.lineErrors, refusalsCopy := l.refusals }) hnodup s.taken
      refine ⟨_, exec_counters rfl rfl h (by simp only [countersLatch, hl]; rfl), hform, fun n hn hs => ?_,
        fun n hne hall => ?_⟩
      · exact (hread n).trans (if_pos ((hmem n).2 ⟨hn, hs⟩))
      · exact (hread n).trans (if_neg fun hm => ((hmem n).1 hm).2.elim hne hall)
    · exact exec_counters rfl rfl h (by simp only [countersRead, hl]; rfl)
    · obtain ⟨hform, hread⟩ := foldl_setLane (fun l => { l with lineErrors := 0, refusals := 0 }) hnodup s.taken
      refine ⟨_, exec_counters rfl rfl h (by simp only [countersReset, hl]; rfl), hform, fun n hn hs => ?_,
        fun n hne hall => ?_⟩
      · exact (hread n).trans (if_pos ((hmem n).2 ⟨hn, hs⟩))
      · exact (hread n).trans (if_neg fun hm => ((hmem n).1 hm).2.elim hne hall)

end Sys2Proof.Proofs
end

section
/-! PROOF. A new PUNCH: what an IDLE lane makes of its verdict, BUSY elsewhere (R65, R66), and the muster punch (R106,
R178). -/

namespace Sys2Proof.Proofs

open Machine Laws

/-! ## The punch is handed to the Admission Unit (R65) -/

section Handed

variable {n code : Nat} {key : HeadKey} {l : Lane} {s u : State}

theorem punchTaken_evaluated
    (h : (u.lane n).state = .idle ∨ ((u.lane n).state = .opened ∧ u.evac.evacuating = true)) :
    punchTaken n code key u = evaluatePunch n code key u := by
  rcases h with h | ⟨h, he⟩
  · simp only [punchTaken, h]
  · simp only [punchTaken, h, he, if_true]

theorem punchTaken_busy
    (h : (u.lane n).state = .released ∨ ((u.lane n).state = .opened ∧ u.evac.evacuating = false)) :
    punchTaken n code key u = sendVerdict n .busy 0 u := by
  rcases h with h | ⟨h, he⟩
  · simp only [punchTaken, h]
  · simp only [punchTaken, h, he, Bool.false_eq_true, if_false]

/-- A VERDICT is sent on the lane's line (R61). -/
theorem LaneMoves.sendVerdict (h : LaneMoves n l s u) (v : Verdict) (d : Nat) :
    LaneMoves n { l with line := some (.verdict v d) } s (sendVerdict n v d u) :=
  h.setLane fun l => { l with line := some (.verdict v d) }

/-- The evaluation reads the lane's mode, and otherwise none of the lanes (R87). -/
theorem LaneMoves.judge (h : LaneMoves n l s u) (hm : l.mode = (s.lane n).mode) :
    u.judge n code key = s.judge n code key := by
  have hmode : (u.lane n).mode = (s.lane n).mode := by rw [h.lane, hm]
  unfold State.judge
  rw [hmode, h.form]
  rfl

theorem LaneMoves.refusedBody {r : Reason} (h : LaneMoves n l s u) :
    refusedBody u n code key r = refusedBody s n code key r := by
  rw [h.form]
  rfl

theorem LaneMoves.lookup (h : LaneMoves n l s u) : u.lookup code = s.lookup code := by
  rw [h.form]
  rfl

theorem LaneMoves.found (h : LaneMoves n l s u) : u.found code = s.found code := by
  rw [h.form]
  rfl

/-- A new PUNCH outside LOST is taken on a state in which nothing but its lane has changed. -/
theorem exec_punch {bit : Bool} {code : Word} (h : s.awaitsReply n = true) (hb : (s.lane n).lastBit ≠ some bit)
    (hs : (s.lane n).state ≠ .lost) :
    ∃ u, LaneMoves n (takenLane s.part.pollInterval bit (s.lane n)) s u
      ∧ exec (.headPunch n bit code key) s = .next (punchTaken n code.toNat key u) := by
  obtain ⟨u, hu, e⟩ := headEvent_taken h hb hs (punchTaken n code.toNat key)
  exact ⟨u, hu, congrArg Host.Outcome.next e⟩

/-- It is evaluated in IDLE, and in OPEN while evacuating, with the judgement of the state before it. -/
theorem exec_evaluated {bit : Bool} {code : Word} (h : s.awaitsReply n = true) (hb : (s.lane n).lastBit ≠ some bit)
    (hs : (s.lane n).state = .idle ∨ ((s.lane n).state = .opened ∧ s.evac.evacuating = true)) :
    ∃ u, LaneMoves n (takenLane s.part.pollInterval bit (s.lane n)) s u
      ∧ u.judge n code.toNat key = s.judge n code.toNat key
      ∧ exec (.headPunch n bit code key) s = .next (evaluatePunch n code.toNat key u) := by
  obtain ⟨u, hu, e⟩ := exec_punch (code := code) (key := key) h hb (by rcases hs with hs | ⟨hs, -⟩ <;> simp [hs])
  refine ⟨u, hu, hu.judge rfl, e.trans (congrArg Host.Outcome.next (punchTaken_evaluated ?_))⟩
  rw [hu.lane, hu.evac]
  exact hs

end Handed

/-! ## The verdicts (R66) -/

/-- From `s` to `t` lane `n` becomes `l`, worker `i`'s last punch is written (R86), and nothing else changes. -/
structure StampMoves (n i : Nat) (l : Lane) (s t : State) : Prop extends LaneBecomes n l s t where
  form : t = { s with lanes := t.lanes, workers := t.workers }
  stamped : t.worker i = { s.worker i with lastPunch := some ⟨n, s.clock.tickCount⟩ }
  unstamped : ∀ j, j ≠ i → t.worker j = s.worker j

/-- A refused punch at its lane: the VERDICT, and one refusal more (R66, R91). -/
def refusedAt (n : Nat) (r : Reason) (s : State) : State :=
  (sendVerdict n r.verdict 0 s).setLane n
    { (sendVerdict n r.verdict 0 s).lane n with
      refusals := bump ((sendVerdict n r.verdict 0 s).lane n).refusals }

section Verdicts

variable {n code i : Nat} {key : HeadKey} {l : Lane} {p : ReleasedPunch} {r : Reason} {s u : State}

theorem LaneMoves.stampPunch (h : LaneMoves n l s u) (i : Nat) : StampMoves n i l s (stampPunch n i u) where
  toLaneBecomes := h.toLaneBecomes.andThen rfl rfl
  form := by rw [h.form]; rfl
  stamped := by rw [Machine.stampPunch, setWorker_same, h.worker, h.clock]
  unstamped j hj := by rw [Machine.stampPunch, setWorker_ne _ _ _ _ hj, h.worker]

theorem StampMoves.setLane (f : Lane → Lane) (h : StampMoves n i l s u) :
    StampMoves n i (f l) s (u.setLane n (f (u.lane n))) where
  toLaneBecomes := h.toLaneBecomes.setLane f
  form := by rw [h.form]; rfl
  stamped := h.stamped
  unstamped := h.unstamped

theorem LaneMoves.refusedAt (h : LaneMoves n l s u) (r : Reason) :
    LaneMoves n { l with line := some (.verdict r.verdict 0), refusals := bump l.refusals } s (refusedAt n r u) :=
  (h.sendVerdict r.verdict 0).setLane fun l => { l with refusals := bump l.refusals }

theorem StampMoves.refusedAt (h : StampMoves n i l s u) (r : Reason) :
    StampMoves n i { l with line := some (.verdict r.verdict 0), refusals := bump l.refusals } s (refusedAt n r u) :=
  (h.setLane fun l => { l with line := some (.verdict r.verdict 0) }).setLane
    fun l => { l with refusals := bump l.refusals }

/-- The display code in the words of R61. -/
theorem displayCode_eq (p : ReleasedPunch) :
    displayCode p = (if p.direction = .outward then 1 else 0) + if p.soft.isSome then 2 else 0 := by
  unfold displayCode
  cases p.direction <;> rfl

theorem evaluatePunch_accept (h : u.judge n code key = .accept p) : evaluatePunch n code key u =
    if (u.lane n).mode = .unlocked then
      commitPunch n p true (sendVerdict n .accept (displayCode p) (stampPunch n p.worker u))
    else releaseLane n (some p) (sendVerdict n .accept (displayCode p) (stampPunch n p.worker u)) := by
  simp only [evaluatePunch, h]

theorem evaluatePunch_refuse (h : u.judge n code key = .refuse r) :
    evaluatePunch n code key u = refusePunch n code key r u := by
  simp only [evaluatePunch, h]

theorem evaluatePunch_ignored (h : u.judge n code key = .ignored) :
    evaluatePunch n code key u = sendVerdict n .ignored 0 u := by
  simp only [evaluatePunch, h]

/-- A refusal after the duplicate check writes the last punch (R86). -/
theorem refusePunch_stamps (hf : u.found code = some i) (hr : r.stamps = true) :
    refusePunch n code key r u = offerEntry (refusedBody u n code key r) (refusedAt n r (stampPunch n i u)) := by
  simp only [refusePunch, hf, hr, if_true]
  rfl

/-- Any other refusal leaves every worker record. -/
theorem refusePunch_plain (h : u.found code = none ∨ r.stamps = false) :
    refusePunch n code key r u = offerEntry (refusedBody u n code key r) (refusedAt n r u) := by
  rcases h with h | h
  · simp only [refusePunch, h]
    rfl
  · cases hf : u.found code <;> simp only [refusePunch, hf, h, Bool.false_eq_true, if_false] <;> rfl

theorem judge_malformed (h : badCode code = true) : s.judge n code key = .refuse .malformed := if_pos h

/-- A refusal after the duplicate check is of a code that was looked up (R84, R87). -/
theorem found_of_stamps (h : s.judge n code key = .refuse r) (hr : r.stamps = true) : s.found code = s.lookup code := by
  refine if_neg fun hbad => ?_
  rw [judge_malformed hbad] at h
  cases h
  cases hr

end Verdicts

/-- Settles O37: the exchange ends, then each verdict acts on its lane and on the one worker record. -/
theorem punchesAct : Obligations.PunchesAct := by
  unfold Obligations.PunchesAct
  refine ⟨fun n bit code key s h hb hs base hbase => ?_, fun n bit code key s h hb hs => ?_⟩
  · obtain ⟨u, hu, hju, e⟩ := exec_evaluated (code := code) (key := key) h hb (.inl hs)
    have hmode : (u.lane n).mode = (s.lane n).mode := by rw [hu.lane]; rfl
    subst hbase
    refine ⟨fun p hp => ?_, fun r hr => ?_, fun hi => ?_⟩
    · have hv := (hu.stampPunch p.worker).setLane
        fun l => { l with line := some (.verdict .accept (displayCode p)) }
      rw [evaluatePunch_accept (hju.trans hp), hmode] at e
      by_cases hm : (s.lane n).mode = .unlocked
      · rw [if_pos hm] at e
        refine ⟨_, hv.form, hv.others, hv.stamped, hv.unstamped, fun hne => absurd hm hne, fun _ => ⟨e, ?_⟩⟩
        rw [← displayCode_eq]
        exact hv.lane
      · rw [if_neg hm] at e
        have hw := hv.setLane fun l =>
          { l with state := .released, punch := some p, releaseTimer := some (10 * (s.laneRecord n).releaseTime) }
        rw [← hv.laneRecord] at hw
        refine ⟨_, hw.form, hw.others, hw.stamped, hw.unstamped, fun _ => ⟨e, ?_⟩, fun he => absurd he hm⟩
        rw [← displayCode_eq, ← hv.laneRecord]
        exact hw.lane
    · rw [evaluatePunch_refuse (hju.trans hr)] at e
      by_cases hplain : s.found code.toNat = none ∨ r.stamps = false
      · rw [refusePunch_plain (by rw [hu.found]; exact hplain), hu.refusedBody] at e
        have hm := hu.refusedAt r
        refine ⟨_, by rw [hm.form], e, hm.others, hm.lane, fun _ => hm.workers, fun hafter i hi => ?_⟩
        have hstamps : r.stamps = true := by rcases hafter with rfl | rfl | rfl | rfl | rfl <;> rfl
        rcases hplain with hnone | hno
        · rw [found_of_stamps hr hstamps, hi] at hnone
          cases hnone
        · rw [hstamps] at hno
          cases hno
      · obtain ⟨hfound, hstamps⟩ := not_or.1 hplain
        have hstamps : r.stamps = true := by simpa using hstamps
        obtain ⟨i, hi⟩ := Option.ne_none_iff_exists'.1 hfound
        rw [refusePunch_stamps (by rw [hu.found]; exact hi) hstamps, hu.refusedBody] at e
        have hm := (hu.stampPunch i).refusedAt r
        refine ⟨_, hm.form, e, hm.others, hm.lane, fun hbefore => ?_, fun _ j hj => ?_⟩
        · rcases hbefore with rfl | rfl | rfl <;> cases hstamps
        · rw [found_of_stamps hr hstamps, hj] at hi
          cases hi
          exact ⟨hm.stamped, hm.unstamped⟩
    · rw [evaluatePunch_ignored (hju.trans hi)] at e
      have hm := hu.sendVerdict .ignored 0
      exact ⟨_, e, hm.form, hm.others, hm.lane⟩
  · obtain ⟨u, hu, e⟩ := exec_punch (code := code) (key := key) h hb (by rcases hs with hs | ⟨hs, -⟩ <;> simp [hs])
    rw [punchTaken_busy (by rw [hu.lane, hu.evac]; exact hs)] at e
    have hm := hu.sendVerdict .busy 0
    exact ⟨_, e, hm.form, hm.others, hm.lane⟩

/-! ## The muster punch (R106, R178) -/

/-- The roll after a muster punch of worker `i`. -/
def mustered (i : Nat) (s : State) : State :=
  if (s.worker i).muster = .unaccounted then
    { s.setWorker i { s.worker i with muster := .accounted } with
      evac := { s.evac with unaccounted := s.evac.unaccounted - 1 } }
  else s

section Muster

variable {n code i : Nat} {key : HeadKey} {s t u : State}

theorem judge_muster (hbad : badCode code = false) (he : s.evac.evacuating = true) : s.judge n code key = .muster := by
  unfold State.judge
  rw [hbad, he]
  rfl

theorem evaluatePunch_muster (h : u.judge n code key = .muster) : evaluatePunch n code key u =
    sendVerdict n (musterPunch n code u).2 0 (musterPunch n code u).1 := by
  simp only [evaluatePunch, h]

theorem musterPunch_unknown (h : u.lookup code = none) :
    musterPunch n code u = (offerEntry (.muster n code none .unknown) u, .musterUnknown) := by
  simp only [musterPunch, h]

theorem musterPunch_found (h : u.lookup code = some i) : musterPunch n code u =
    (offerEntry (.muster n code (some i) (musterOf (u.worker i).muster)) (mustered i u), .musterOk) := by
  simp only [musterPunch, h]
  rfl

theorem mustered_worker (h : (s.worker i).muster = .unaccounted) :
    (mustered i s).worker i = { s.worker i with muster := .accounted } := by
  rw [mustered, if_pos h]
  exact setWorker_same ..

theorem mustered_evac (h : (s.worker i).muster = .unaccounted) :
    (mustered i s).evac = { s.evac with unaccounted := s.evac.unaccounted - 1 } := by
  rw [mustered, if_pos h]

theorem mustered_other (h : (s.worker i).muster ≠ .unaccounted) : mustered i s = s := if_neg h

theorem mustered_others {j : Nat} (hj : j ≠ i) (s : State) : (mustered i s).worker j = s.worker j := by
  unfold mustered
  split
  · exact setWorker_ne _ _ _ _ hj
  · rfl

/-- The muster step changes the worker records and the evacuation's counts alone. -/
theorem mustered_form (i : Nat) (s : State) :
    mustered i s = { s with workers := (mustered i s).workers, evac := (mustered i s).evac } := by
  unfold mustered
  split <;> rfl

/-- An entry is offered alike where only lanes, worker records and the evacuation differ. -/
theorem offerEntry_apart (body : EntryBody) (h : t = { s with lanes := t.lanes, workers := t.workers, evac := t.evac }) :
    offerEntry body t = { offerEntry body s with lanes := t.lanes, workers := t.workers, evac := t.evac } := by
  rw [offerEntry_eq (s := s) body (by rw [h]; exact ⟨rfl, rfl, rfl, rfl, rfl, rfl⟩)]
  obtain ⟨c, q, e⟩ := offerEntry_form body s
  rw [e, h]
  rfl

/-- An entry is offered, then a VERDICT sent: the lane, and what the offer does to the state before. -/
theorem verdict_offered {l : Lane} {body : EntryBody} {v : Verdict} (hl : LaneBecomes n l s t)
    (h : t = { s with lanes := t.lanes, workers := t.workers, evac := t.evac }) :
    LaneBecomes n { l with line := some (.verdict v 0) } s (sendVerdict n v 0 (offerEntry body t))
      ∧ sendVerdict n v 0 (offerEntry body t) =
        { offerEntry body s with
          lanes := (sendVerdict n v 0 (offerEntry body t)).lanes, workers := t.workers, evac := t.evac } :=
  ⟨(hl.pays (offerEntry_pays body t)).setLane fun l => { l with line := some (.verdict v 0) },
    by rw [offerEntry_apart body h]; rfl⟩

end Muster

/-- Settles O38: the malformed code's refusal, and the muster step by what the badge map finds. -/
theorem musterPunchActs : Obligations.MusterPunchActs := by
  unfold Obligations.MusterPunchActs
  refine ⟨fun n bit code key s h hb hs he hbad => ?_, fun n bit code key s h hb hs he h0 h1 => ?_⟩
  all_goals
    obtain ⟨u, hu, hju, e⟩ := exec_evaluated (code := code) (key := key) h hb (hs.imp_right fun ho => ⟨ho, he⟩)
  · have hbad := badCode_true hbad
    have hfound : s.found code.toNat = none := if_pos hbad
    rw [evaluatePunch_refuse (hju.trans (judge_malformed hbad)),
      refusePunch_plain (.inr rfl), hu.refusedBody, refusedBody, hfound] at e
    have hm := hu.refusedAt .malformed
    exact ⟨_, hm.form, e, hm.others, hm.lane⟩
  · rw [evaluatePunch_muster (hju.trans (judge_muster (badCode_false h0 h1) he))] at e
    cases hlook : s.lookup code.toNat with
    | none =>
      rw [musterPunch_unknown (by rw [hu.lookup, hlook])] at e
      obtain ⟨hlane, hform⟩ := verdict_offered (body := .muster n code.toNat none .unknown) (v := .musterUnknown)
        hu.toLaneBecomes (by rw [hu.form])
      refine ⟨_, _, e, rfl, by rw [hform], hlane.others, ?_, fun _ => ⟨?_, ?_, ?_⟩, fun i hi => nomatch hi⟩
      · rw [hlane.lane]; rfl
      · rw [hform]; exact hu.workers
      · rw [hform]; exact hu.evac
      · rw [hlane.lane]
    | some i =>
      rw [musterPunch_found (by rw [hu.lookup, hlook]), hu.worker] at e
      obtain ⟨hlane, hform⟩ := verdict_offered (t := mustered i u)
        (body := .muster n code.toNat (some i) (musterOf (s.worker i).muster)) (v := .musterOk)
        (hu.toLaneBecomes.andThen (by rw [mustered_form]) (by rw [mustered_form])) (by rw [mustered_form, hu.form])
      have hmark : (u.worker i).muster = (s.worker i).muster := by rw [hu.worker]
      refine ⟨_, _, e, ?_, by rw [hform], hlane.others, ?_, (nomatch ·), fun j hj => ?_⟩
      · dsimp only
        cases (s.worker i).muster <;> rfl
      · rw [hlane.lane]; rfl
      cases hj
      refine ⟨by rw [hlane.lane], fun j hj => ?_, fun hun => ⟨?_, ?_⟩, fun hother => ⟨?_, ?_⟩⟩ <;> rw [hform]
      · exact (mustered_others hj u).trans (hu.worker j)
      · exact (mustered_worker (hmark.trans hun)).trans (by rw [hu.worker])
      · exact (mustered_evac (hmark.trans hun)).trans (by rw [hu.evac])
      · exact (congrArg (·.worker i) (mustered_other (hmark.trans_ne hother)) :).trans (hu.worker i)
      · exact (congrArg State.evac (mustered_other (hmark.trans_ne hother))).trans hu.evac

end Sys2Proof.Proofs
end

section
/-! PROOF. A LANE write of one record or several: what it reads, stores, enables and disables (R57 to R59, R199, R202). -/

namespace Sys2Proof.Proofs

open Machine Laws

/-! ## LANE records and their bytes (R57, R202) -/

section Records

theorem laneDirectionOf_some {b : Byte} (h : b.toNat ≤ 2) : laneDirectionOf b =
    some (if b.toNat = 0 then .onlyIn else if b.toNat = 1 then .onlyOut else .dual) := by
  have h' : b.toNat = 0 ∨ b.toNat = 1 ∨ b.toNat = 2 := by omega
  rcases h' with h' | h' | h' <;> simp [laneDirectionOf, h']

/-- A LANE record whose refusable bytes lie in their sets, and whether one of its times was brought to a limit. -/
theorem readLane_inside {e d f r h1 h2 w m1 m2 : Byte} (he : e.toNat ≤ 1) (hd : d.toNat ≤ 2) (hf : f.toNat ≤ 1) :
    readLane [e, d, f, r, h1, h2, w, m1, m2] = some
      (⟨decide (e.toNat = 1), if d.toNat = 0 then .onlyIn else if d.toNat = 1 then .onlyOut else .dual,
          if f.toNat = 1 then .opens else .secure, clampTo 1 30 r.toNat, clampTo 5 300 (nat16 h1 h2),
          clampTo 1 31 w.toNat, half m1 m2⟩,
        decide (clampTo 1 30 r.toNat ≠ r.toNat) || decide (clampTo 5 300 (nat16 h1 h2) ≠ nat16 h1 h2)
          || decide (clampTo 1 31 w.toNat ≠ w.toNat)) := by
  simp only [readLane, yesNo_some he, yesNo_some hf, laneDirectionOf_some hd, decide_eq_true_eq]

theorem clampTo_within {lo hi n : Nat} (h : lo ≤ n) (h' : n ≤ hi) : clampTo lo hi n = n := by
  unfold clampTo
  omega

theorem clampTo_ne_iff {lo hi n : Nat} (h : lo ≤ hi) : clampTo lo hi n ≠ n ↔ ¬ (lo ≤ n ∧ n ≤ hi) := by
  unfold clampTo
  omega

/-- The reply says whether the times lay within their limits. -/
theorem clampCode_times (r h w : Nat) :
    clampCode (decide (clampTo 1 30 r ≠ r) || decide (clampTo 5 300 h ≠ h) || decide (clampTo 1 31 w ≠ w)) =
      if 1 ≤ r ∧ r ≤ 30 ∧ 5 ≤ h ∧ h ≤ 300 ∧ 1 ≤ w ∧ w ≤ 31 then .ok else .clamped := by
  have hr := clampTo_ne_iff (lo := 1) (hi := 30) (n := r) (by decide)
  have hh := clampTo_ne_iff (lo := 5) (hi := 300) (n := h) (by decide)
  have hw := clampTo_ne_iff (lo := 1) (hi := 31) (n := w) (by decide)
  simp only [hr, hh, hw, ← Bool.decide_or, clampCode, decide_eq_true_eq]
  split
  · next hc => rw [if_neg (by omega)]
  · next hc => rw [if_pos (by omega)]

/-- The times of a LANE record lie within their limits (R57). -/
def timesWithin (r : LaneRecord) : Prop :=
  1 ≤ r.releaseTime ∧ r.releaseTime ≤ 30 ∧ 5 ≤ r.heldTime ∧ r.heldTime ≤ 300 ∧ 1 ≤ r.window ∧ r.window ≤ 31

theorem laneRecord_bytes_length (r : LaneRecord) : r.bytes.length = 9 := rfl

/-- Such a record reads back from its bytes, with no time brought to a limit. -/
theorem readLane_bytes {r : LaneRecord} (h : timesWithin r) : readLane r.bytes = some (r, false) := by
  obtain ⟨enabled, direction, fail, rt, ht, wt, mask⟩ := r
  obtain ⟨hr1, hr2, hh1, hh2, hw1, hw2⟩ : 1 ≤ rt ∧ rt ≤ 30 ∧ 5 ≤ ht ∧ ht ≤ 300 ∧ 1 ≤ wt ∧ wt ≤ 31 := h
  simp (disch := omega) only [LaneRecord.bytes, flagByte, be8, be16, List.cons_append, List.nil_append, readLane,
    nat16_be16, byte_toNat, yesNo_flag, half_be16, clampTo_within]
  cases direction <;> cases fail <;> simp [laneDirectionOf, yesNo]

theorem readRun_lanes {run : List LaneRecord} (h : ∀ r ∈ run, timesWithin r) :
    readRun readLane 9 run.length (run.flatMap LaneRecord.bytes) = some (run.map fun r => (r, false)) := by
  have hread := readRun_flatMap (read := readLane) (size := 9) (bytes := fun p : LaneRecord × Bool => p.1.bytes)
    (run := run.map fun r => (r, false)) (by simp [laneRecord_bytes_length]) (by
      simp only [List.mem_map, forall_exists_index, and_imp]
      rintro _ r hr rfl
      exact readLane_bytes (h r hr))
  rwa [List.length_map, List.flatMap_map] at hread

end Records

/-! ## What the lanes of a run send (R59, R78, R96) -/

/-- `t` is `s` with its request taken, but for LANE records, lanes, and what entries and alerts have been offered. -/
def LanesWritten (s t : State) : Prop :=
  t = { (withJournalOf s t).taken with laneTable := t.laneTable, lanes := t.lanes }

section Sent

variable {s t : State} {n : Nat}

theorem withJournalOf_queue (t s : State) : (withJournalOf t s).link.upQueue = s.link.upQueue := rfl

theorem conditionFrames_clear (s : State) (n : Nat) (l : Lane) : conditionFrames s n l LaneConditions.clear =
    s.alertOf (!l.changes.lost && l.conditions.lost) 0 n 0 ++ s.alertOf (!l.changes.forced && l.conditions.forced) 1 n 0
      ++ s.alertOf (!l.changes.held && l.conditions.held) 2 n 0
      ++ s.alertOf (!l.changes.tamper && l.conditions.tamper) 3 n 0 := by
  simp only [conditionFrames, LaneConditions.clear, xor_false_and]
  rfl

/-- A lane that is enabled, or stays as it was, offers nothing. -/
theorem laneWritten_quietly (h : LanesWritten s t)
    (he : (s.laneRecord n).enabled = false ∨ (t.laneRecord n).enabled = true) :
    LanesWritten s (laneWritten s.taken t n) ∧ withJournalOf s (laneWritten s.taken t n) = withJournalOf s t := by
  by_cases hsame : (s.laneRecord n).enabled = (t.laneRecord n).enabled
  · rw [laneWritten_same s.taken t n hsame]
    exact ⟨h, rfl⟩
  · have hs : (s.laneRecord n).enabled = false := by
      refine he.elim id fun ht => ?_
      rw [ht] at hsame
      exact Bool.eq_false_iff.2 hsame
    have ht : (t.laneRecord n).enabled = true := by
      rw [hs] at hsame
      exact Bool.eq_true_of_not_eq_false fun e => hsame e.symm
    rw [laneWritten_enables s.taken t n hs ht]
    refine ⟨?_, rfl⟩
    unfold LanesWritten
    rw [show t = _ from h]
    rfl

/-- A lane that is disabled gives its punch up, and then offers the ALERT frames of the flags that set. -/
theorem laneWritten_sends (h : LanesWritten s t) (hl : t.lane n = s.lane n) (hs : (s.laneRecord n).enabled = true)
    (ht : (t.laneRecord n).enabled = false) :
    LanesWritten s (laneWritten s.taken t n) ∧ ∃ v, v = (withJournalOf s t).gaveUp n
      ∧ withJournalOf s (laneWritten s.taken t n) =
        { v with link := { v.link with upQueue := (withJournalOf s (laneWritten s.taken t n)).link.upQueue } }
      ∧ Alerts v (withJournalOf s (laneWritten s.taken t n)) (v.clearedAlerts n) := by
  rw [laneWritten_disables s.taken t n hs ht]
  obtain ⟨j, c, q, hgave⟩ := gaveUp_form (withJournalOf s t) n
  have hend := endRelease_gaveUp n .disabled (withJournalOf s t) (t := t)
    (by rw [show t = _ from h]; exact ⟨rfl, rfl, rfl, rfl, rfl, rfl⟩) (by rw [hl]; rfl)
  have hw := (laneBecomes_endRelease n .disabled t).setLane fun l =>
    { l with heldTimer := none, pollTimer := none, replyWindow := none }
  have halerts : Alerts _ (disableLane n t) (conditionFrames _ n _ LaneConditions.clear) :=
    setConditions_alerts n LaneConditions.clear _
  obtain ⟨p, hform⟩ : ∃ p, disableLane n t = _ := setConditions_form n LaneConditions.clear _
  rw [hw.lane, hl] at halerts
  rw [hend, hgave] at halerts hform
  generalize disableLane n t = u at halerts hform ⊢
  refine ⟨?_, _, rfl, ?_, ?_⟩
  · unfold LanesWritten
    rw [hform, show t = _ from h]
    rfl
  · rw [hgave, hform]
    rfl
  · rw [hgave]
    rw [conditionFrames_congr (s := s) (by rw [show t = _ from h]; rfl) (by rw [show t = _ from h]; rfl),
      conditionFrames_clear] at halerts
    exact alerts_congr halerts rfl (withJournalOf_queue s u)

/-! ### The steps of a run -/

theorem foldl_laneWritten (before : State) {l : List Nat} (s : State) :
    (l.foldl (laneWritten before) s).laneTable = s.laneTable
      ∧ ∀ n, n ∉ l → (l.foldl (laneWritten before) s).lane n = s.lane n := by
  induction l generalizing s with
  | nil => exact ⟨rfl, fun _ _ => rfl⟩
  | cons k l ih =>
    obtain ⟨htable, hothers⟩ := ih (laneWritten before s k)
    have hb := laneBecomes_laneWritten before s k
    refine ⟨htable.trans hb.table, fun n hn => ?_⟩
    obtain ⟨hk, hl⟩ := not_or.1 (mt List.mem_cons.2 hn)
    exact (hothers n hl).trans (hb.others n hk)

/-- The state after the first `k` lanes of a LANE run have acted. -/
def lanesActed (first : Nat) (run : List LaneRecord) (s : State) (k : Nat) : State :=
  ((List.range k).map fun k => first + k).foldl (laneWritten s.taken)
    { s.taken with laneTable := setRun LaneRecord.cold first run s.laneTable }

variable {first k : Nat} {run : List LaneRecord} {r : LaneRecord}

theorem lanesActed_succ : lanesActed first run s (k + 1) = laneWritten s.taken (lanesActed first run s k) (first + k) := by
  unfold lanesActed
  rw [List.range_succ, List.map_append, List.foldl_append]
  rfl

theorem lanesActed_record (hk : run[k]? = some r) (j : Nat) :
    (lanesActed first run s j).laneRecord (first + k) = r := by
  unfold State.laneRecord lanesActed
  rw [(foldl_laneWritten ..).1]
  exact (setRun_stores first run s.laneTable).1 k r hk

/-- A lane has not changed when its turn comes. -/
theorem lanesActed_lane : (lanesActed first run s k).lane (first + k) = s.lane (first + k) :=
  (foldl_laneWritten ..).2 _ (by rw [mem_run]; omega)

/-- What the next lane of the run sends. -/
theorem lanesActed_step (h : LanesWritten s (lanesActed first run s k)) (hk : run[k]? = some r) :
    LanesWritten s (lanesActed first run s (k + 1))
      ∧ ((s.laneRecord (first + k)).enabled = false ∨ r.enabled = true →
        withJournalOf s (lanesActed first run s (k + 1)) = withJournalOf s (lanesActed first run s k))
      ∧ ((s.laneRecord (first + k)).enabled = true → r.enabled = false →
        ∃ v, v = (withJournalOf s (lanesActed first run s k)).gaveUp (first + k)
          ∧ withJournalOf s (lanesActed first run s (k + 1)) =
            { v with
              link := { v.link with upQueue := (withJournalOf s (lanesActed first run s (k + 1))).link.upQueue } }
          ∧ Alerts v (withJournalOf s (lanesActed first run s (k + 1))) (v.clearedAlerts (first + k))) := by
  have hr := lanesActed_record (first := first) (s := s) hk k
  rw [lanesActed_succ]
  by_cases hq : (s.laneRecord (first + k)).enabled = false ∨ r.enabled = true
  · obtain ⟨hw, hsent⟩ := laneWritten_quietly h (by rw [hr]; exact hq)
    refine ⟨hw, fun _ => hsent, fun hs hn => ?_⟩
    exact absurd hq (by simp [hs, hn])
  · obtain ⟨hs, hn⟩ : (s.laneRecord (first + k)).enabled = true ∧ r.enabled = false := by simpa using hq
    obtain ⟨hw, hsent⟩ := laneWritten_sends h lanesActed_lane hs (by rw [hr]; exact hn)
    exact ⟨hw, fun hc => absurd hc hq, fun _ _ => hsent⟩

theorem lanesActed_written (hk : k ≤ run.length) : LanesWritten s (lanesActed first run s k) := by
  induction k with
  | zero => rfl
  | succ k ih => exact (lanesActed_step (ih (by omega)) (List.getElem?_eq_getElem (by omega))).1

end Sent

/-! ## The lanes and records of a run -/

section Run

variable {s : State} {first k : Nat} {run : List LaneRecord} {r : LaneRecord}

theorem writtenLane_same (interval : Nat) (b : Bool) (l : Lane) : writtenLane interval b b l = l := if_pos rfl

theorem writtenLane_disables (interval : Nat) (l : Lane) : writtenLane interval true false l =
    { l with
      state := .disabled, releaseTimer := none, heldTimer := none, punch := none, pollTimer := none
      replyWindow := none, conditions := LaneConditions.clear, changes := l.changes.union l.conditions } := by
  simp [writtenLane, disabledLane, flagged, released, LaneConditions.clear, LaneConditions.diff, LaneConditions.union]

/-- Each lane of the run has its record and acts by its enabled field before and after. -/
theorem writeLanes_at (hk : run[k]? = some r) :
    (writeLanes first run s.taken).laneRecord (first + k) = r
      ∧ (writeLanes first run s.taken).lane (first + k) =
        writtenLane s.part.pollInterval (s.laneRecord (first + k)).enabled r.enabled (s.lane (first + k)) := by
  have hr : (writeLanes first run s.taken).laneRecord (first + k) = r := lanesActed_record hk run.length
  refine ⟨hr, ?_⟩
  obtain ⟨-, -, hlane⟩ := writeLanes_lanes s.taken first run
  rw [hlane, hr]
  rfl

/-- Every other lane and its record stand. -/
theorem writeLanes_outside {n : Nat} (hn : n < first ∨ first + run.length ≤ n) :
    (writeLanes first run s.taken).laneRecord n = s.laneRecord n
      ∧ (writeLanes first run s.taken).lane n = s.lane n := by
  obtain ⟨htable, -, -⟩ := writeLanes_lanes s.taken first run
  constructor
  · unfold State.laneRecord
    rw [htable]
    exact (setRun_stores first run s.laneTable).2 n hn
  · exact (foldl_laneWritten ..).2 n (by rw [mem_run]; omega)

theorem writeRun_lane {n : Nat} {records : List Byte} {l : List (LaneRecord × Bool)}
    (h : readRun readLane 9 n records = some l) :
    writeRun .lane first n records s = answer (clampCode (l.any (·.2))) (writeLanes first (l.map (·.1)) s) := by
  simp only [writeRun, h]

/-- A run whose times lie within their limits is stored as it is. -/
theorem writeRun_lanes (h : ∀ r ∈ run, timesWithin r) :
    writeRun .lane first run.length (run.flatMap LaneRecord.bytes) s = answer .ok (writeLanes first run s) := by
  rw [writeRun_lane (readRun_lanes h), List.map_map, List.any_map]
  simp [Function.comp_def, clampCode]

/-- What a run of one lane sends: nothing, or the entry of the punch it gives up and then the alerts of its conditions. -/
theorem writeLanes_one (n : Nat) (r : LaneRecord) (s : State) : ∃ v,
    ((s.laneRecord n).enabled = false ∨ r.enabled = true →
      v = s ∧ (writeLanes n [r] s.taken).link.upQueue = s.link.upQueue)
    ∧ ((s.laneRecord n).enabled = true → r.enabled = false →
      v = s.gaveUp n ∧ Alerts v (writeLanes n [r] s.taken) (v.clearedAlerts n))
    ∧ writeLanes n [r] s.taken =
      { v.taken with
        laneTable := (writeLanes n [r] s.taken).laneTable, lanes := (writeLanes n [r] s.taken).lanes
        link := { v.taken.link with upQueue := (writeLanes n [r] s.taken).link.upQueue } } := by
  obtain ⟨hwritten, hquiet, hsends⟩ := lanesActed_step (s := s) (first := n) (run := [r]) (k := 0) rfl rfl
  change LanesWritten s (writeLanes n [r] s.taken) at hwritten
  change _ → withJournalOf s (writeLanes n [r] s.taken) = s at hquiet
  by_cases hq : (s.laneRecord n).enabled = false ∨ r.enabled = true
  · have hs := hquiet hq
    rw [LanesWritten, hs] at hwritten
    exact ⟨s, fun _ => ⟨rfl, by rw [hwritten]; rfl⟩, fun h1 h2 => absurd hq (by simp [h1, h2]), by rw [hwritten]⟩
  · obtain ⟨hs, hn⟩ : (s.laneRecord n).enabled = true ∧ r.enabled = false := by simpa using hq
    obtain ⟨v, hv, hform, halerts⟩ := hsends hs hn
    refine ⟨v, fun hc => absurd hc hq, fun _ _ => ⟨hv, alerts_congr halerts rfl (withJournalOf_queue s _).symm⟩, ?_⟩
    change withJournalOf s (writeLanes n [r] s.taken) = _ at hform
    rw [LanesWritten, hform] at hwritten
    exact hwritten

end Run

/-- Settles O20: what the bytes are read as, then each lane of the run in its turn. -/
theorem laneWriteActs : Obligations.LaneWriteActs := by
  unfold Obligations.LaneWriteActs
  refine ⟨fun tag lane enabled dir fail rt h1 h2 w m1 m2 s h hlane => ⟨fun hout => ?_, fun he hd hf => ?_⟩,
    fun tag first count run s h hn hrec htimes => ?_⟩
  · obtain ⟨hwrite, -⟩ := tableRequestsAreRefused
    obtain ⟨-, -, hrefused⟩ := (hwrite _ _ _ _ _ s h).2 .lane rfl
    exact hrefused [[enabled, dir, fail, rt, h1, h2, w, m1, m2]] rfl rfl (by simp [TableId.size])
      (show lane.toNat + 1 ≤ 16 by omega) (by decide) ⟨_, List.mem_singleton.2 rfl, hout⟩
  · have hread := readRun_one readLane 9 [enabled, dir, fail, rt, h1, h2, w, m1, m2] rfl
    rw [readLane_inside he hd hf] at hread
    have hwrite := writeRun_lane (first := lane.toNat) (s := s.taken) hread
    simp only [List.any_cons, List.any_nil, Bool.or_false, List.map_cons, List.map_nil, clampCode_times] at hwrite
    have hact := exec_tableWrite h ((tableWrite_checked (t := .lane) s.taken rfl (show lane.toNat + 1 ≤ 16 by omega)
      (by decide) rfl).trans hwrite)
    generalize hr : LaneRecord.mk _ _ _ _ _ _ _ = r at hact
    obtain ⟨hrecord, hlane⟩ := writeLanes_at (s := s) (first := lane.toNat) (run := [r]) (k := 0) rfl
    rw [Nat.add_zero] at hrecord hlane
    have hrenabled : r.enabled = decide (enabled.toNat = 1) := by rw [← hr]
    obtain ⟨v, hquiet, hsends, hform⟩ := writeLanes_one lane.toNat r s
    rw [hrenabled] at hlane hquiet hsends
    refine ⟨_, v, hact, by rw [hrecord, hrenabled], by rw [hrecord, ← hr], by rw [hrecord, ← hr],
      by rw [hrecord, ← hr]; rfl, by rw [hrecord, ← hr]; rfl, by rw [hrecord, ← hr]; rfl, by rw [hrecord, ← hr],
      fun n hn => writeLanes_outside (show _ ∨ lane.toNat + 1 ≤ n by omega), fun hsame => ?_, fun hs he => ?_,
      fun hs he => ?_, fun hq => hquiet (hq.imp_right fun he => by simp [he]), fun hs he => hsends hs (by simp [he]),
      hform⟩
    · rw [hlane, hsame, writtenLane_same]
    · rw [hlane, hs, he]; rfl
    · rw [hlane, hs, he]; exact writtenLane_disables _ _
  · have hact := exec_writeRun h rfl hn (show run.length ≤ 16 by omega) hrec (fun r _ => laneRecord_bytes_length r)
      (writeRun_lanes htimes)
    refine ⟨_, hact, fun k r hk => ?_, fun n => writeLanes_outside, fun k => withJournalOf s (lanesActed first.toNat run s k),
      rfl, fun k r hk => ?_, lanesActed_written le_rfl⟩
    · obtain ⟨hrecord, hlane⟩ := writeLanes_at (s := s) (first := first.toNat) hk
      refine ⟨hrecord, fun he => ?_, fun hs hr => ?_, fun hs hr => ?_⟩
      · rw [hlane, he, writtenLane_same]
      · rw [hlane, hs, hr]; rfl
      · rw [hlane, hs, hr, writtenLane_disables]
    · have hk' : k < run.length := (List.getElem?_eq_some_iff.1 hk).1
      exact (lanesActed_step (lanesActed_written hk'.le) hk).2

end Sys2Proof.Proofs
end

section
/-! PROOF. EVACUATION CLEAR in its steps, and the levels turning INACTIVE (R174, R181). -/

namespace Sys2Proof.Proofs

open Machine Laws

/-! ## The state on which the expiries are taken (R181) -/

/-- An OPEN lane restarts its held timer (R76). -/
def restartedLane (ticks : Nat) (l : Lane) : Lane :=
  if l.state = .opened then { l with heldTimer := some ticks } else l

/-- The state after the clear's first steps, on the phase and on the records (R181). -/
def clearedRecords (s : State) : State :=
  { s with
    evac := { s.evac with evacuating := false, causes := Causes.empty, armed := false }
    workers := Table.update Worker.zeroed Worker.cleared s.workers, insideCount := 0 }

/-- The state after the clear's own steps, before the expiries due are taken (R181). -/
def clearedState (s : State) : State :=
  resumeClose (idleBells (laneNumbers.foldl restartHeld (clearedRecords s)))

section Cleared

variable (s : State)

theorem clearEvacuation_eq :
    clearEvacuation s = flagEvacuating (offerEntry .evacEnd (takeExpiries (clearedState s))) := rfl

theorem resumeClose_eq : resumeClose s =
    { s with close :=
        { s.close with phase := if s.close.phase = .suspended then .walking else s.close.phase } } := by
  unfold resumeClose
  split
  · rfl
  · rfl

theorem laneMoves_restartHeld (n : Nat) :
    LaneMoves n (restartedLane (s.heldTicks n) (s.lane n)) s (restartHeld s n) := by
  unfold restartHeld restartedLane
  split
  · exact laneMoves_setLane ..
  · exact laneMoves_refl n s

/-- Every OPEN lane restarts its held timer, and nothing else changes. -/
theorem foldl_restartHeld :
    laneNumbers.foldl restartHeld s = { s with lanes := (laneNumbers.foldl restartHeld s).lanes }
      ∧ ∀ n, (laneNumbers.foldl restartHeld s).lane n =
        if n < 16 ∧ (s.lane n).state = .opened then
          { s.lane n with heldTimer := some (10 * (s.laneRecord n).heldTime) }
        else s.lane n := by
  obtain ⟨hform, -, -, hread⟩ := foldl_lanes (step := restartHeld)
    (f := fun n => restartedLane (s.heldTicks n)) (P := fun u => u = { s with lanes := u.lanes })
    (fun u n hu => by
      have hm := laneMoves_restartHeld u n
      have hticks : u.heldTicks n = s.heldTicks n := by rw [hu]; rfl
      rw [hticks] at hm
      exact ⟨hm.toLaneBecomes, by rw [hm.form, hu]⟩)
    (l := laneNumbers) List.nodup_range (s := s) rfl
  refine ⟨hform, fun n => (hread n).trans ?_⟩
  have hmem : n ∈ laneNumbers ↔ n < 16 := List.mem_range
  simp only [restartedLane, hmem, ite_and]
  rfl

theorem cleared_eq (w : Worker) : w.cleared =
    { w with presence := if w.status ≠ .free ∧ w.presence = .inside then .unknown else w.presence } := by
  simp only [Worker.cleared, inUse_iff]
  split <;> rfl

/-- What the clear's own steps leave. -/
theorem clearedState_form : clearedState s =
    { s with
      evac := { s.evac with evacuating := false, causes := Causes.empty, armed := false }
      workers := Table.update Worker.zeroed Worker.cleared s.workers, insideCount := 0
      lanes := (clearedState s).lanes, arbiters := []
      close := { s.close with phase := if s.close.phase = .suspended then .walking else s.close.phase } } := by
  obtain ⟨hform, -⟩ := foldl_restartHeld (clearedRecords s)
  unfold clearedState
  generalize laneNumbers.foldl restartHeld (clearedRecords s) = u at hform ⊢
  rw [resumeClose_eq, hform]
  rfl

theorem clearedState_lane (n : Nat) : (clearedState s).lane n =
    if n < 16 ∧ (s.lane n).state = .opened then
      { s.lane n with heldTimer := some (10 * (s.laneRecord n).heldTime) }
    else s.lane n := by
  obtain ⟨-, hread⟩ := foldl_restartHeld (clearedRecords s)
  unfold clearedState
  generalize laneNumbers.foldl restartHeld (clearedRecords s) = u at hread ⊢
  rw [resumeClose_eq]
  exact hread n

variable {s} (hw : Table.wf Worker.zeroed s.workers = true)

include hw

theorem clearedState_worker (j : Nat) : (clearedState s).worker j =
    { s.worker j with presence :=
        if (s.worker j).status ≠ .free ∧ (s.worker j).presence = .inside then .unknown else (s.worker j).presence } := by
  rw [clearedState_form, ← cleared_eq]
  exact get_update hw rfl j

/-- With no deadline reached the expiries change nothing. -/
theorem takeExpiries_cleared (hd : ∀ j a, (s.worker j).attendance = some a → s.clock.gateTime < a.deadline) :
    takeExpiries (clearedState s) = clearedState s := by
  have hwf : Table.wf Worker.zeroed (clearedState s).workers = true := by
    rw [clearedState_form]
    exact wf_update hw _
  refine takeExpiries_none hwf fun j ⟨a, ha, hle⟩ => ?_
  rw [clearedState_worker hw] at ha
  have hclock : (clearedState s).clock = s.clock := by rw [clearedState_form]
  rw [hclock] at hle
  have := hd j a ha
  omega

end Cleared

/-! ## EVACUATION CLEAR -/

section Clear

variable {s : State}

theorem exec_evacuationClear {tag : Byte} {c : ReplyCode} {u : State} (h : Ready (.evacuationClear tag) s)
    (hact : evacuationClear s.taken = answer c u) : exec (.evacuationClear tag) s = .next (u.reply 113#8 tag c []) :=
  congrArg Host.Outcome.next (request_ready h rfl hact)

/-- The EVACUATING change flag sets, with the alert of a flag that was clear (R171). -/
theorem flagEvacuating_form (s : State) : flagEvacuating s =
    { s with
      changes := { s.changes with evacuating := true }
      link := { s.link with upQueue := (flagEvacuating s).link.upQueue } } := by
  obtain ⟨q, h, -⟩ := flagEvacuating_spec s
  rw [h]

/-- The expiries and the entry of the clear leave what is neither a record, the journal nor the close's counts. -/
theorem evacEnd_pays (v : State) : Pays v (offerEntry .evacEnd (takeExpiries v)) :=
  (takeExpiries_pays v).trans (offerEntry_pays ..)

theorem evacEnd_flag (v : State) : (offerEntry .evacEnd (takeExpiries v)).changes.evacuating = v.changes.evacuating := by
  rw [offerEntry_changes]
  exact (takeExpiries_keepsFlags v).evacuating

end Clear

/-- Settles O53: the two levels by their equations, and the clear by the state on which the expiries are taken. -/
theorem evacuationEnds : Obligations.EvacuationEnds := by
  unfold Obligations.EvacuationEnds
  refine ⟨⟨fun s hr hl hs => ?_, fun s hr hl hs => ?_⟩,
    fun tag s h hw => ⟨fun hf => ?_, fun hf he => ?_, fun hf he => ?_⟩⟩
  · exact congrArg Host.Outcome.next (if_pos ⟨hr, by simp [levelChanges, hl, hs]⟩)
  · exact congrArg Host.Outcome.next (if_pos ⟨hr, by simp [levelChanges, hl, hs]⟩)
  · exact exec_evacuationClear h (if_pos hf)
  · exact exec_evacuationClear h ((if_neg (by simp [State.taken, hf])).trans (if_pos (by simp [State.taken, he])))
  · have hact : evacuationClear s.taken = answer .ok (clearEvacuation s.taken) :=
      (if_neg (by simp [State.taken, hf])).trans (if_neg (by simp [State.taken, he]))
    have hv := clearedState_form s.taken
    have hlane := clearedState_lane s.taken
    have hworker := clearedState_worker (s := s.taken) hw
    have hexpire := takeExpiries_cleared (s := s.taken) hw
    have hexec := exec_evacuationClear h hact
    rw [clearEvacuation_eq] at hexec
    generalize clearedState s.taken = v at hv hlane hworker hexpire hexec
    have hu := flagEvacuating_form (offerEntry .evacEnd (takeExpiries v))
    have halerts := flagEvacuating_alerts (offerEntry .evacEnd (takeExpiries v))
    have hflag := evacEnd_flag v
    have hpays := evacEnd_pays v
    generalize flagEvacuating (offerEntry .evacEnd (takeExpiries v)) = u at hexec hu halerts
    generalize hw' : offerEntry .evacEnd (takeExpiries v) = w at hu halerts hflag hpays
    obtain ⟨ws, m, j, ch, cl, sk, sp, q, hform⟩ := hpays.form
    have hevac : w.evac = { s.evac with evacuating := false, causes := Causes.empty, armed := false } := by
      rw [hform, hv]; rfl
    have hclear : v.changes.evacuating = s.changes.evacuating := by rw [hv]; rfl
    rw [hflag, hclear, hevac] at halerts
    have hue : u.evac = w.evac := by rw [hu]
    have harb : v.arbiters = [] := by rw [hv]
    have huarb : u.arbiters = [] := by rw [hu, hform, harb]
    have hulane (n : Nat) : u.lane n = v.lane n := by rw [hu, hform]; rfl
    refine ⟨u, v, w, hexec, by rw [hv]; rfl, hworker, hlane, fun o => ?_, hw'.symm, hu, halerts, by rw [hue, hevac],
      by rw [hue, hevac], by rw [hue, hevac], by rw [hue, hevac], by rw [hue, hevac], by rw [hue, hevac], fun o => ?_, ?_,
      fun n hn => ?_, by rw [hu], ?_, ?_, fun hd => ?_⟩
    · unfold State.arbiter; rw [harb]; rfl
    · unfold State.arbiter; rw [huarb]; rfl
    · rw [hu, hform, hv]; rfl
    · rw [hulane, hlane]
      simp only [hn, true_and]
      rfl
    · rw [hu, hform, hv]; rfl
    · rw [hu, hform, hv]; rfl
    · rw [hexpire hd] at hw'
      subst hw'
      refine ⟨?_, ?_, fun j => ?_⟩
      · rw [hu, offerEntry_insideCount, hv]
      · rw [hu, offerEntry_journal, appended_next, hv]; rfl
      · rw [hu]
        exact (offerEntry_worker ..).trans (hworker j)

end Sys2Proof.Proofs
end

section
/-! PROOF. An evacuation start in its steps, for each of the three causes, and the causes that are only added (R173,
R175). -/

namespace Sys2Proof.Proofs

open Machine Laws

/-! ## The lanes at an evacuation start (R75) -/

/-- A lane at an evacuation start: a release ends (R75). -/
def evacuatedLane (l : Lane) : Lane := if l.state = .released then released l .idle else l

/-- The entry of the punch that a lane gives up at an evacuation start, if it does (R75, R96). -/
def evacuationEntry (n : Nat) (l : Lane) : Option EntryBody :=
  if l.state = .released then l.punch.map (unusedEntry n) else none

section Lanes

variable {n : Nat} {s t : State}

theorem laneBecomes_evacuateLane (n : Nat) (s : State) :
    LaneBecomes n (evacuatedLane (s.lane n)) s (evacuateLane s n) := by
  unfold evacuateLane evacuatedLane
  split
  · exact laneBecomes_endRelease ..
  · exact laneBecomes_refl n s

/-- Beside the lanes a step changes the journal, its change flags and the queue alone. -/
theorem evacuateLane_form (n : Nat) (s : State) :
    evacuateLane s n = withJournalOf { s with lanes := (evacuateLane s n).lanes } (evacuateLane s n) := by
  unfold evacuateLane
  split
  · rw [endRelease_gaveUp n .idle s (t := s) ⟨rfl, rfl, rfl, rfl, rfl, rfl⟩ rfl]
    rfl
  · rfl

/-- What a step offers, seen by the journal. -/
theorem evacuateLane_offers (h : SameJournal s t) :
    SameJournal ((evacuationEntry n (t.lane n)).toList.foldl (fun u b => offerEntry b u) s) (evacuateLane t n) := by
  unfold evacuateLane evacuationEntry
  split
  · cases hp : (t.lane n).punch with
    | none =>
      rw [endRelease_none n .idle t hp]
      exact ⟨h.journal, h.changes, h.clock, h.part, h.mask, h.queue⟩
    | some p =>
      rw [endRelease_some n .idle t hp, punchUnused, punchBody_unused]
      exact offerEntry_same _ ⟨h.journal, h.changes, h.clock, h.part, h.mask, h.queue⟩
  · exact h

/-- Offers to states that the journal sees alike. -/
theorem foldl_offerEntry_same (l : List EntryBody) (h : SameJournal s t) :
    SameJournal (l.foldl (fun u b => offerEntry b u) s) (l.foldl (fun u b => offerEntry b u) t) := by
  induction l generalizing s t with
  | nil => exact h
  | cons b l ih => exact ih (offerEntry_same b h)

/-- What the steps at several lanes offer: the entries of the punches given up, in the lanes' order. -/
theorem foldl_evacuateLane_offers (base : State) {l : List Nat} (hl : l.Nodup) (h : SameJournal s t)
    (hlanes : ∀ n ∈ l, t.lane n = base.lane n) :
    SameJournal ((l.filterMap fun n => evacuationEntry n (base.lane n)).foldl (fun u b => offerEntry b u) s)
      (l.foldl evacuateLane t) := by
  induction l generalizing s t with
  | nil => exact h
  | cons n l ih =>
    obtain ⟨hn, hl⟩ := List.nodup_cons.1 hl
    have hstep := evacuateLane_offers (n := n) h
    rw [hlanes n (List.mem_cons_self ..)] at hstep
    have hrest := ih hl hstep fun k hk =>
      ((laneBecomes_evacuateLane n t).others k (ne_of_mem_of_not_mem hk hn)).trans
        (hlanes k (List.mem_cons_of_mem _ hk))
    rw [← List.foldl_append] at hrest
    rw [List.filterMap_cons]
    cases he : evacuationEntry n (base.lane n) <;> rw [he] at hrest <;> exact hrest

/-- The steps at all lanes. -/
theorem foldl_evacuateLane_form (s : State) :
    laneNumbers.foldl evacuateLane s =
        withJournalOf { s with lanes := (laneNumbers.foldl evacuateLane s).lanes } (laneNumbers.foldl evacuateLane s)
      ∧ ∀ n, n < 16 → (laneNumbers.foldl evacuateLane s).lane n = evacuatedLane (s.lane n) := by
  obtain ⟨hform, -, -, hread⟩ := foldl_lanes (step := evacuateLane) (f := fun _ => evacuatedLane)
    (P := fun u => u = withJournalOf { s with lanes := u.lanes } u)
    (fun u n hu => ⟨laneBecomes_evacuateLane n u, by rw [evacuateLane_form, hu]; rfl⟩)
    (l := laneNumbers) List.nodup_range (s := s) rfl
  exact ⟨hform, fun n hn => (hread n).trans (if_pos (List.mem_range.2 hn))⟩

end Lanes

/-! ## The start (R175) -/

/-- The state after the journal has been offered the punches given up at an evacuation start (R75). -/
def lanesLogged (s : State) : State :=
  ((List.range 16).filterMap fun n => evacuationEntry n (s.lane n)).foldl (fun u b => offerEntry b u) s

/-- The state after the EVAC START entry too (R175). -/
def startLogged (s : State) (k : Causes) : State := offerEntry (.evacStart k) (lanesLogged s)

/-- What an evacuation start with the cause set `k` makes of `x`. -/
structure Starts (k : Causes) (x t : State) : Prop where
  form : t =
    { x with
      workers := Table.update Worker.zeroed Worker.enrolled x.workers, lanes := t.lanes, arbiters := t.arbiters
      journal := t.journal, changes := t.changes, link := { x.link with upQueue := t.link.upQueue }
      close := { x.close with phase := suspendedPhase x.close.phase }
      evac := { x.evac with
        evacuating := true, causes := k, snapshot := stampOf x.now
        rollSize := t.unaccountedRecords, unaccounted := t.unaccountedRecords } }
  lanes : ∀ n, n < 16 → t.lane n = evacuatedLane (x.lane n)
  tone : ∀ o, o < 4 → t.arbiter o = x.toneArbiter
  journal : t.journal = (startLogged x k).journal
  changes : t.changes = { (startLogged x k).changes with evacuating := true }
  alerts : Alerts (startLogged x k) t ((startLogged x k).alertOf (!x.changes.evacuating) 6 255 1)

theorem foldl_offerEntry_flag (l : List EntryBody) (s : State) :
    (l.foldl (fun u b => offerEntry b u) s).changes.evacuating = s.changes.evacuating := by
  induction l generalizing s with
  | nil => rfl
  | cons b l ih => rw [List.foldl_cons, ih, offerEntry_changes]

/-- The part of a start before the lanes: the phase and the causes. -/
def phaseSet (k : Causes) (x : State) : State := { x with evac := { x.evac with evacuating := true, causes := k } }

/-- The end of a start: its entry and the EVACUATING change flag (R171, R175). -/
def startEnd (z : State) : State := flagEvacuating (offerEntry (.evacStart z.evac.causes) z)

theorem startEvacuation_steps (c : Cause) (x : State) : startEvacuation c x =
    startEnd (suspendClose (soundTone (buildRoll
      (laneNumbers.foldl evacuateLane (phaseSet (x.evac.causes.add c) x))))) := by
  unfold startEvacuation startEnd phaseSet
  rfl

/-- The end of a start, on what the journal saw before. -/
theorem startEnd_form {k : Causes} {u z : State} (hk : z.evac.causes = k) (he : z.evac.evacuating = true)
    (h : SameJournal u z) :
    startEnd z =
        { z with
          journal := (offerEntry (.evacStart k) u).journal
          changes := { (offerEntry (.evacStart k) u).changes with evacuating := true }
          link := { z.link with upQueue := (startEnd z).link.upQueue } }
      ∧ Alerts (offerEntry (.evacStart k) u) (startEnd z)
          ((offerEntry (.evacStart k) u).alertOf (!z.changes.evacuating) 6 255 1) := by
  unfold startEnd
  rw [hk]
  have hsame := offerEntry_same (.evacStart k) h
  have halerts := flagEvacuating_alerts (offerEntry (.evacStart k) z)
  rw [alertOf_congr hsame.part hsame.mask, offerEntry_changes, offerEntry_evac, he] at halerts
  refine ⟨?_, alerts_congr halerts hsame.queue.symm rfl⟩
  rw [flagEvacuating_form, offerEntry_eq _ h]
  rfl

theorem startEvacuation_starts (c : Cause) (x : State) : Starts (x.evac.causes.add c) x (startEvacuation c x) := by
  have hsame : SameJournal x (phaseSet (x.evac.causes.add c) x) := ⟨rfl, rfl, rfl, rfl, rfl, rfl⟩
  have hoffers := foldl_evacuateLane_offers x (l := laneNumbers) List.nodup_range hsame fun _ _ => rfl
  obtain ⟨hform, hread⟩ := foldl_evacuateLane_form (phaseSet (x.evac.causes.add c) x)
  rw [startEvacuation_steps]
  generalize x.evac.causes.add c = k at hsame hoffers hform hread ⊢
  generalize laneNumbers.foldl evacuateLane (phaseSet k x) = y at hoffers hform hread ⊢
  obtain ⟨a, hroll, htone⟩ := rollAndTone_form y
  generalize suspendClose (soundTone (buildRoll y)) = z at hroll ⊢
  have hz : SameJournal (lanesLogged x) z := by
    rw [hroll]
    exact ⟨hoffers.journal, hoffers.changes, hoffers.clock, hoffers.part, hoffers.mask, hoffers.queue⟩
  obtain ⟨ht, halerts⟩ := startEnd_form (k := k) (by rw [hroll, hform]; rfl) (by rw [hroll, hform]; rfl) hz
  rw [hz.changes, lanesLogged, foldl_offerEntry_flag] at halerts
  generalize startEnd z = t at ht halerts ⊢
  refine ⟨?_, fun n hn => ?_, fun o ho => ?_, by rw [ht]; rfl, by rw [ht]; rfl, halerts⟩
  · rw [ht, hroll, hform]
    rfl
  · refine Eq.trans ?_ (hread n hn)
    rw [ht, hroll]
    rfl
  · refine Eq.trans ?_ ((htone o ho).trans ?_)
    · rw [ht, hroll]
      rfl
    · rw [hform]
      rfl

/-! ## The causes (R173, R180) -/

/-- The state on which a command's cause is taken: EVACUATE's request gone from the buffer, or the level ACTIVE. -/
def causeState : Instr → State → State
  | .fireActive, s => { s with evac := { s.evac with fireLevel := true } }
  | .chainLevelActive, s => { s with evac := { s.evac with chainLevel := true } }
  | _, s => s.taken

/-- The cause of a command that starts an evacuation. -/
def causeOf : Instr → Cause
  | .fireActive => .fire
  | .chainLevelActive => .chain
  | _ => .command

section Causes

variable {s : State}

theorem takeCause_normal {c : Cause} (h : s.evac.evacuating = false) : takeCause c s = startEvacuation c s :=
  if_neg (by simp [h])

/-- EVACUATE is answered OK unless it is a broadcast (R180, R192). -/
theorem exec_evacuate {b : Bool} {tag : Byte} (h : Ready (.evacuate b tag) s) :
    exec (.evacuate b tag) s = .next ((takeCause .command s.taken).replyUnless b 112#8 tag .ok []) :=
  congrArg Host.Outcome.next (takeRequest_ready evacuateRequest h rfl)

theorem exec_fireActive (hr : s.running = true) (hl : s.evac.fireLevel = false) (hs : s.evac.fireSamples = (true, true)) :
    exec .fireActive s = .next (takeCause .fire (causeState .fireActive s)) :=
  congrArg Host.Outcome.next (if_pos ⟨hr, by simp [levelChanges, hl, hs]⟩)

theorem exec_chainActive (hr : s.running = true) (hl : s.evac.chainLevel = false)
    (hs : s.evac.chainSamples = (true, true)) :
    exec .chainLevelActive s = .next (takeChain (causeState .chainLevelActive s)) :=
  congrArg Host.Outcome.next (if_pos ⟨hr, by simp [levelChanges, hl, hs]⟩)

/-- The chain level is a cause while sensing is ARMED and the drive is off (R173). -/
theorem takeChain_causes (ha : s.evac.armed = true) (hf : s.evac.causes.fire = false)
    (hc : s.evac.causes.command = false) :
    takeChain (causeState .chainLevelActive s) = takeCause .chain (causeState .chainLevelActive s) :=
  if_pos ⟨rfl, ha, by simp [Evac.drive, causeState, hf, hc]⟩

theorem takeChain_ignored (h : s.evac.armed = false ∨ s.evac.causes.fire = true ∨ s.evac.causes.command = true) :
    takeChain (causeState .chainLevelActive s) = causeState .chainLevelActive s := by
  refine if_neg fun ⟨_, ha, hd⟩ => ?_
  rcases h with h | h | h
  · exact absurd (h.symm.trans ha) (by decide)
  · exact hd (by simp [Evac.drive, causeState, h])
  · exact hd (by simp [Evac.drive, causeState, h])

/-- Where a cause is taken, nothing but a level and the request buffer has changed. -/
theorem causeState_form (i : Instr) (s : State) : ∃ q f g, causeState i s =
    { s with evac := { s.evac with fireLevel := f, chainLevel := g }, link := { s.link with requests := q } } := by
  unfold causeState
  split <;> exact ⟨_, _, _, rfl⟩

/-- The lane's words of a start. -/
theorem evacuatedLane_released {l : Lane} (h : l.state = .released) :
    evacuatedLane l = { l with state := .idle, releaseTimer := none, punch := none } := if_pos h

theorem evacuatedLane_other {l : Lane} (h : l.state ≠ .released) : evacuatedLane l = l := if_neg h

/-- The journal sees no difference between the state before a cause and the one on which it is taken. -/
theorem startLogged_same (k : Causes) (q : List Request) (f g : Bool) :
    SameJournal (startLogged s k)
      (startLogged
        { s with evac := { s.evac with fireLevel := f, chainLevel := g }, link := { s.link with requests := q } } k) :=
  offerEntry_same _ (foldl_offerEntry_same _ ⟨rfl, rfl, rfl, rfl, rfl, rfl⟩)

theorem stampOf_now (s : State) : stampOf s.now = if s.clock.valid then .time s.clock.gateTime else .unset := by
  unfold State.now
  cases s.clock.valid <;> rfl

end Causes

/-- Settles O52: the cause's command takes the cause on a state of its own, and the start's steps act on that. -/
theorem evacuationStarts : Obligations.EvacuationStarts := by
  unfold Obligations.EvacuationStarts
  refine ⟨fun i s c hcase he hw => ?_, fun b tag s h he => ?_, fun s hr he hl hs => ?_,
    fun s hr he hl hs ha hf hc => ?_, fun s hr hl hs hno => ?_⟩
  · have hk : (causeState i s).evac.causes.add (causeOf i) = c := by
      rcases hcase with ⟨b, tag, rfl, -, rfl⟩ | ⟨rfl, -, -, -, rfl⟩ | ⟨rfl, -, -, -, -, -, -, rfl⟩ <;> rfl
    have hstart := startEvacuation_starts (causeOf i) (causeState i s)
    rw [hk] at hstart
    have hexec : takeCause (causeOf i) (causeState i s) = startEvacuation (causeOf i) (causeState i s) :=
      takeCause_normal (by obtain ⟨q, f, g, e⟩ := causeState_form i s; rw [e]; exact he)
    generalize startEvacuation (causeOf i) (causeState i s) = t at hstart hexec
    refine ⟨t, ?_, ?_, ?_, ?_⟩
    · rcases hcase with ⟨b, tag, rfl, h, -⟩ | ⟨rfl, hr, hl, hs, -⟩ | ⟨rfl, hr, hl, hs, ha, hf, hc, -⟩
      · rw [exec_evacuate h]
        exact congrArg (fun u => Host.Outcome.next (State.replyUnless u b 112#8 tag .ok [])) hexec
      · exact (exec_fireActive hr hl hs).trans (congrArg Host.Outcome.next hexec)
      · exact (exec_chainActive hr hl hs).trans
          (congrArg Host.Outcome.next ((takeChain_causes ha hf hc).trans hexec))
    · rintro r rfl
      rcases hcase with ⟨b, tag, rfl, -⟩ | ⟨rfl, -⟩ | ⟨rfl, -⟩ <;> (rw [hstart.form]; rfl)
    · rcases hcase with ⟨b, tag, rfl, -⟩ | ⟨rfl, -⟩ | ⟨rfl, -⟩ <;> (rw [hstart.form]; rfl)
    · obtain ⟨q, f, g, hx⟩ := causeState_form i s
      rw [hx] at hstart
      have hform := hstart.form
      have hlogged : SameJournal (startLogged s c) _ := startLogged_same (s := s) c q f g
      have hcount : t.evac.unaccounted = t.unaccountedRecords :=
        congrArg (fun u : State => u.evac.unaccounted) hform
      refine ⟨by rw [hform], by rw [hform], ?_, ?_, hcount, fun j => ?_, fun n hn => ⟨fun hl => ?_, fun hl => ?_⟩,
        fun o ho => ⟨_, hstart.tone o ho, rfl, rfl, rfl, rfl⟩, ?_, by rw [hstart.changes], fun v hv => ?_, ?_, ?_, ?_⟩
      · rw [hform]
        exact stampOf_now s
      · rw [hform]
      · rw [hform, ← rollMark_eq]
        exact get_update (f := Worker.enrolled) hw rfl j
      · exact (hstart.lanes n hn).trans (evacuatedLane_released hl)
      · exact (hstart.lanes n hn).trans (evacuatedLane_other hl)
      · rw [hform]
        rfl
      · have hv : v = startLogged s c := by
          rw [hv, List.foldl_append, startLogged, lanesLogged]
          refine congrArg (fun l : List EntryBody => offerEntry (.evacStart c) (l.foldl (fun u b => offerEntry b u) s))
            (List.filterMap_congr fun n _ => ?_)
          unfold evacuationEntry
          cases (s.lane n).state <;> cases (s.lane n).punch <;> rfl
        rw [hv]
        have halerts := hstart.alerts
        rw [alertOf_congr hlogged.part hlogged.mask] at halerts
        exact ⟨hstart.journal.trans hlogged.journal, hstart.changes.trans (by rw [hlogged.changes]),
          alerts_congr halerts hlogged.queue.symm rfl⟩
      · rw [hform]
      · rw [hform]
      · rw [hform]
  · rw [exec_evacuate h, takeCause_evacuating (by exact he)]
    rfl
  · rw [exec_fireActive hr hl hs, takeCause_evacuating (by exact he)]
    rfl
  · rw [exec_chainActive hr hl hs, takeChain_causes ha hf hc, takeCause_evacuating (by exact he)]
    rfl
  · rw [exec_chainActive hr hl hs, takeChain_ignored hno]
    rfl

end Sys2Proof.Proofs
end


section
/-! SUPPORT. The Shift Calendar (chapter 2) in the words of the claims: rota days, occurrences, the candidates of a moment that
are on shift, and the nearest of them. -/

namespace Sys2Proof.Proofs

open Machine Laws

/-! ## Rota days and occurrences (R19, R23) -/

/-- The rota day is the entry at the difference from the anchor, reduced by the rota length (R19). -/
theorem rotaDay_reduced (c : Crew) (d : Nat) (h : 0 < c.length) :
    ∃ k, k < c.length ∧ (c.length : Int) ∣ (d : Int) - c.anchor - k ∧ c.rotaDay d = c.rota.getD k none := by
  have hlo : 0 ≤ ((d : Int) - c.anchor) % c.length := Int.emod_nonneg _ (by omega)
  have hhi : ((d : Int) - c.anchor) % c.length < c.length := Int.emod_lt_of_pos _ (by omega)
  refine ⟨(((d : Int) - c.anchor) % c.length).toNat, by omega, ?_, rfl⟩
  rw [Int.toNat_of_nonneg hlo]
  exact Int.dvd_self_sub_emod

theorem crosses_iff (r : Shift) : r.crosses = true ↔ r.stop ≤ r.start := decide_eq_true_iff

/-- An occurrence of a shift that crosses midnight ends on the day after (R23). -/
theorem shiftOn_eq (s : State) (i d : Nat) : s.shiftOn i d =
    ⟨i, d, 86400 * d + 60 * (s.shift i).start,
      86400 * d + 60 * (s.shift i).stop + if (s.shift i).start < (s.shift i).stop then 0 else 86400⟩ := by
  have hc : (if (s.shift i).crosses = true then 86400 else 0) =
      if (s.shift i).start < (s.shift i).stop then 0 else 86400 := by
    simp only [crosses_iff, ← not_lt, ite_not]
  simp only [State.shiftOn, hc, mul_comm d]

/-! ## The occurrences that pass (R24, R25) -/

section Calendar

variable {s : State} {crew t : Nat} {c : ShiftDay}

theorem mem_candidates : c ∈ s.candidates crew t ↔
    ((s.crew crew).rotaDay (t / 86400) = some c.shift ∧ c = s.shiftOn c.shift (t / 86400))
      ∨ (1 ≤ t / 86400 ∧ (s.crew crew).rotaDay (t / 86400 - 1) = some c.shift
        ∧ (s.shift c.shift).stop ≤ (s.shift c.shift).start ∧ c = s.shiftOn c.shift (t / 86400 - 1)) := by
  have hshift : ∀ {i d}, c = s.shiftOn i d → c.shift = i := by rintro i d rfl; rfl
  simp only [State.candidates, List.mem_append, List.mem_ite_nil_right]
  refine or_congr ?_ (and_congr_right fun _ => ?_) <;> simp only [dayOf]
  · cases (s.crew crew).rotaDay (t / 86400) with
    | none => simp
    | some i =>
      simp only [List.mem_singleton, Option.some.injEq]
      exact ⟨fun h => ⟨(hshift h).symm, hshift h ▸ h⟩, fun ⟨hi, h⟩ => hi ▸ h⟩
  · cases (s.crew crew).rotaDay (t / 86400 - 1) with
    | none => simp
    | some i =>
      simp only [List.mem_ite_nil_right, List.mem_singleton, Option.some.injEq, crosses_iff]
      exact ⟨fun ⟨hx, h⟩ => ⟨(hshift h).symm, (hshift h).symm ▸ hx, (hshift h).symm ▸ h⟩,
        fun ⟨hi, hx, h⟩ => hi ▸ ⟨hx, h⟩⟩

theorem onShift_iff : s.onShift t c = true ↔ c.start ≤ t + 60 * (s.shift c.shift).entryOpen ∧ t < c.stop := by
  simp [State.onShift]

/-! ## The nearest (R26) -/

theorem distance_eq (t start : Nat) : distance t start = ((t : Int) - start).natAbs := by
  unfold distance
  omega

/-- The start of `c` is nearer to the moment than that of `b`, or as near and not before it. -/
def Beats (t : Nat) (c b : ShiftDay) : Prop :=
  ((t : Int) - c.start).natAbs < ((t : Int) - b.start).natAbs
    ∨ (((t : Int) - c.start).natAbs = ((t : Int) - b.start).natAbs ∧ b.start ≤ c.start)

theorem Beats.refl (t : Nat) (c : ShiftDay) : Beats t c c := .inr ⟨rfl, le_rfl⟩

theorem Beats.trans {a b c : ShiftDay} (h1 : Beats t a b) (h2 : Beats t b c) : Beats t a c := by
  unfold Beats at *
  omega

/-- Of two occurrences one is taken, and it beats both. -/
theorem nearer_beats (t : Nat) (a b : ShiftDay) :
    (nearer t a b = a ∨ nearer t a b = b) ∧ Beats t (nearer t a b) a ∧ Beats t (nearer t a b) b := by
  simp only [nearer, distance_eq]
  split
  · next h => exact ⟨.inl rfl, .refl t a, .inl h⟩
  split
  · next h => exact ⟨.inr rfl, .inl h, .refl t b⟩
  split
  · next h1 h2 h => exact ⟨.inl rfl, .refl t a, .inr ⟨by omega, h⟩⟩
  · next h1 h2 h => exact ⟨.inr rfl, .inr ⟨by omega, by omega⟩, .refl t b⟩

/-- Of a list of occurrences, taken one after another, one is left, and it beats them all. -/
theorem foldl_nearer_beats (t : Nat) (l : List ShiftDay) (a : ShiftDay) :
    l.foldl (nearer t) a ∈ a :: l ∧ ∀ b ∈ a :: l, Beats t (l.foldl (nearer t) a) b := by
  induction l generalizing a with
  | nil => simp [Beats.refl]
  | cons x l ih =>
    obtain ⟨hmem, hbeats⟩ := ih (nearer t a x)
    obtain ⟨hpick, ha, hx⟩ := nearer_beats t a x
    have hfirst := hbeats _ List.mem_cons_self
    rw [List.foldl_cons]
    refine ⟨?_, ?_⟩
    · rcases List.mem_cons.1 hmem with h | h
      · rw [h]
        rcases hpick with e | e <;> simp [e]
      · simp [h]
    · simp only [List.mem_cons, forall_eq_or_imp]
      exact ⟨hfirst.trans ha, hfirst.trans hx, fun b hb => hbeats b (List.mem_cons_of_mem _ hb)⟩

theorem resolve_eq_none : s.resolve crew t = none ↔ ∀ c ∈ s.candidates crew t, s.onShift t c ≠ true := by
  unfold State.resolve
  rw [← List.filter_eq_nil_iff]
  split
  · next h => simp [h]
  · next h => simp [h]

/-- The occurrence that a crew resolves to is a candidate on shift and beats every other. -/
theorem resolve_some (h : s.resolve crew t = some c) :
    (c ∈ s.candidates crew t ∧ s.onShift t c = true)
      ∧ ∀ b ∈ s.candidates crew t, s.onShift t b = true → Beats t c b := by
  unfold State.resolve at h
  split at h
  · cases h
  · next a rest hl =>
    cases h
    obtain ⟨hmem, hbeats⟩ := foldl_nearer_beats t rest a
    rw [← hl] at hmem hbeats
    exact ⟨List.mem_filter.1 hmem, fun b hb hon => hbeats b (List.mem_filter.2 ⟨hb, hon⟩)⟩

end Calendar

end Sys2Proof.Proofs
end

section
/-! PROOF. The evaluation order of a punch, its direction, and the calendar's answer (R19, R23 to R26, R84 to R90). -/

namespace Sys2Proof.Proofs

open Machine Laws

section Evaluation

variable {s : State} {lane code i : Nat} {key : HeadKey}

/-! ## Steps 1 to 5, and the accepted OUT -/

theorem badCode_iff : badCode code = true ↔ code = 0 ∨ code = 4294967295 := by simp [badCode]

theorem duplicate_iff {w : Worker} : s.duplicate lane w = true ↔
    ∃ lp, w.lastPunch = some lp ∧ lp.lane = lane
      ∧ (s.clock.tickCount - lp.tick).toNat < 10 * s.part.duplicateWindow := by
  unfold State.duplicate
  cases w.lastPunch <;> simp

/-- A punch that comes to step 3: its code is not malformed, and no evacuation is on. -/
structure ReachesLane (s : State) (code : Nat) : Prop where
  good : badCode code = false
  calm : s.evac.evacuating = false

/-- A punch that comes to step 5: the lane is not LOCKED, and the map holds the code. -/
structure ReachesRecord (s : State) (lane code i : Nat) : Prop extends ReachesLane s code where
  unlocked : (s.lane lane).mode ≠ .locked
  listed : s.lookup code = some i

theorem ReachesLane.judge_locked (h : ReachesLane s code) (hm : (s.lane lane).mode = .locked) :
    s.judge lane code key = .refuse .laneLocked := by
  simp [State.judge, h.good, h.calm, hm]

theorem ReachesLane.judge_unlisted (h : ReachesLane s code) (hm : (s.lane lane).mode ≠ .locked)
    (hl : s.lookup code = none) : s.judge lane code key = .refuse .unknownBadge := by
  simp [State.judge, h.good, h.calm, hm, hl]

theorem ReachesRecord.judge_duplicate (h : ReachesRecord s lane code i) (hd : s.duplicate lane (s.worker i) = true) :
    s.judge lane code key = .ignored := by
  simp [State.judge, h.good, h.calm, h.unlocked, h.listed, hd]

theorem ReachesRecord.judge_outward (h : ReachesRecord s lane code i) (hd : s.duplicate lane (s.worker i) = false)
    (ho : s.punchDirection lane (some i) key = .outward) : s.judge lane code key =
      .accept ⟨code, i, .outward, s.now, none,
        if (s.worker i).presence = .outside then some .passbackOut else none⟩ := by
  simp [State.judge, h.good, h.calm, h.unlocked, h.listed, hd, ho]

theorem ReachesRecord.judge_inward (h : ReachesRecord s lane code i) (hd : s.duplicate lane (s.worker i) = false)
    (hi : s.punchDirection lane (some i) key = .inward) : s.judge lane code key = s.judgeIn lane code i := by
  simp [State.judge, h.good, h.calm, h.unlocked, h.listed, hd, hi]

/-! ## Steps 6 to 11, of an IN -/

theorem journalFull_held : (s.journalFull && !s.part.wrap) = true ↔
    s.journal.entries.length = 2048 ∧ s.part.wrap = false := by
  simp [State.journalFull, Config.journalCap]

theorem now_set (h : s.clock.valid = true) : s.now = some s.clock.gateTime := if_pos h

theorem now_unset (h : s.clock.valid = false) : s.now = none := by simp [State.now, h]

/-- An IN that comes to step 10: the worker is not suspended, the crew may pass here, the journal has room, and no hard
passback holds. -/
structure ReachesCalendar (s : State) (lane i : Nat) : Prop where
  active : (s.worker i).status ≠ .suspended
  here : (s.laneRecord lane).crewMask.getLsbD (s.worker i).crew = true
  room : (s.journalFull && !s.part.wrap) = false
  passes : ¬ ((s.worker i).presence = .inside ∧ (s.crew (s.worker i).crew).passback = .hard)

theorem judgeIn_suspended (h : (s.worker i).status = .suspended) : s.judgeIn lane code i = .refuse .suspended := if_pos h

theorem judgeIn_notThisLane (hs : (s.worker i).status ≠ .suspended)
    (hm : (s.laneRecord lane).crewMask.getLsbD (s.worker i).crew = false) :
    s.judgeIn lane code i = .refuse .notThisLane := by
  simp only [State.judgeIn, hs, hm, Bool.not_false, if_true, if_false]

theorem judgeIn_journalFull (hs : (s.worker i).status ≠ .suspended)
    (hm : (s.laneRecord lane).crewMask.getLsbD (s.worker i).crew = true) (hf : (s.journalFull && !s.part.wrap) = true) :
    s.judgeIn lane code i = .refuse .journalFull := by
  simp only [State.judgeIn, hs, hm, hf, Bool.not_true, Bool.false_eq_true, if_true, if_false]

theorem judgeIn_passback (hs : (s.worker i).status ≠ .suspended)
    (hm : (s.laneRecord lane).crewMask.getLsbD (s.worker i).crew = true) (hf : (s.journalFull && !s.part.wrap) = false)
    (hp : (s.worker i).presence = .inside ∧ (s.crew (s.worker i).crew).passback = .hard) :
    s.judgeIn lane code i = .refuse .passback := by
  simp only [State.judgeIn, hs, hm, hf, hp, Bool.not_true, Bool.false_eq_true, and_self, if_true, if_false]

theorem ReachesCalendar.judgeIn_outOfShift (h : ReachesCalendar s lane i) (hv : s.clock.valid = true)
    (ha : (s.worker i).anytime = false) (hr : s.resolve (s.worker i).crew s.clock.gateTime = none) :
    s.judgeIn lane code i = .refuse .outOfShift := by
  simp only [State.judgeIn, h.active, h.here, h.room, h.passes, now_set hv, ha, hr, Bool.not_true, Bool.false_eq_true,
    if_false]

theorem ReachesCalendar.judgeIn_onShift {c : ShiftDay} (h : ReachesCalendar s lane i) (hv : s.clock.valid = true)
    (ha : (s.worker i).anytime = false) (hr : s.resolve (s.worker i).crew s.clock.gateTime = some c) :
    s.judgeIn lane code i =
      .accept ⟨code, i, .inward, some s.clock.gateTime, some c,
        if (s.worker i).presence = .inside then some .softPassback else none⟩ := by
  simp only [State.judgeIn, h.active, h.here, h.room, h.passes, now_set hv, ha, hr, Bool.not_true, Bool.false_eq_true,
    if_false]

/-- While the clock is UNSET, and for an ANYTIME worker, no occurrence is asked for (R88, R90). -/
theorem ReachesCalendar.judgeIn_free (h : ReachesCalendar s lane i)
    (hf : s.clock.valid = false ∨ (s.worker i).anytime = true) : s.judgeIn lane code i =
      .accept ⟨code, i, .inward, s.now, none,
        if (s.worker i).presence = .inside then some .softPassback else none⟩ := by
  simp only [State.judgeIn, h.active, h.here, h.room, h.passes, Bool.not_true, Bool.false_eq_true, if_false]
  cases hv : s.clock.valid with
  | false => rw [now_unset hv]
  | true =>
    have ha : (s.worker i).anytime = true := hf.resolve_left (by simp [hv])
    simp only [now_set hv, ha, if_true]

/-! ## The direction (R85) -/

theorem punchDirection_onlyIn {found : Option Nat} (h : (s.laneRecord lane).direction = .onlyIn) :
    s.punchDirection lane found key = .inward := by simp [State.punchDirection, h]

theorem punchDirection_onlyOut {found : Option Nat} (h : (s.laneRecord lane).direction = .onlyOut) :
    s.punchDirection lane found key = .outward := by simp [State.punchDirection, h]

theorem punchDirection_keyIn {found : Option Nat} (h : (s.laneRecord lane).direction = .dual) :
    s.punchDirection lane found .keyIn = .inward := by simp [State.punchDirection, h]

theorem punchDirection_keyOut {found : Option Nat} (h : (s.laneRecord lane).direction = .dual) :
    s.punchDirection lane found .keyOut = .outward := by simp [State.punchDirection, h]

theorem punchDirection_keyNone (h : (s.laneRecord lane).direction = .dual) :
    s.punchDirection lane (some i) .keyNone = if (s.worker i).presence = .inside then .outward else .inward := by
  simp [State.punchDirection, h]

theorem punchDirection_notFound (h : (s.laneRecord lane).direction = .dual) :
    s.punchDirection lane none .keyNone = .inward := by simp [State.punchDirection, h]

end Evaluation

/-- Settles O36: each step of the order from the punches that reach it, the direction by the lane's, and the calendar's
answer by the candidates that pass. -/
theorem evaluationOrder : Obligations.EvaluationOrder := by
  unfold Obligations.EvaluationOrder
  refine ⟨fun s lane code key => ⟨fun hbad => judge_malformed (badCode_iff.2 hbad), fun h0 h1 => ?_⟩,
    fun s lane found key => ⟨fun h => punchDirection_onlyIn h, fun h => punchDirection_onlyOut h, fun h => ?_⟩,
    rotaDay_reduced, shiftOn_eq, fun s crew t passes hpasses => ?_⟩
  · have hgood : badCode code = false := Bool.eq_false_iff.2 fun h => by
      rcases badCode_iff.1 h with h | h
      · exact h0 h
      · exact h1 h
    refine ⟨fun he => judge_muster hgood he, fun he => ?_⟩
    have hlane : ReachesLane s code := ⟨hgood, he⟩
    refine ⟨fun hm => hlane.judge_locked hm, fun hm => ⟨fun hl => hlane.judge_unlisted hm hl, fun i hi => ?_⟩⟩
    have hrecord : ReachesRecord s lane code i := ⟨hlane, hm, hi⟩
    refine ⟨fun hd => hrecord.judge_duplicate (duplicate_iff.2 hd), fun hd => ?_⟩
    have hd : s.duplicate lane (s.worker i) = false := Bool.eq_false_iff.2 (mt duplicate_iff.1 hd)
    refine ⟨fun ho => hrecord.judge_outward hd ho, fun hin => ?_⟩
    rw [hrecord.judge_inward hd hin]
    refine ⟨fun hs => judgeIn_suspended hs, fun hs => ⟨fun hmask => judgeIn_notThisLane hs hmask, fun hmask =>
      ⟨fun hl hw => judgeIn_journalFull hs hmask (journalFull_held.2 ⟨hl, hw⟩), fun hroom => ?_⟩⟩⟩
    have hroom : (s.journalFull && !s.part.wrap) = false := Bool.eq_false_iff.2 (mt journalFull_held.1 hroom)
    refine ⟨fun hp hh => judgeIn_passback hs hmask hroom ⟨hp, hh⟩, fun hpass => ?_⟩
    have hcal : ReachesCalendar s lane i := ⟨hs, hmask, hroom, hpass⟩
    exact ⟨hcal.judgeIn_outOfShift, fun hv ha c hr => hcal.judgeIn_onShift hv ha hr, hcal.judgeIn_free⟩
  · refine ⟨?_, ?_, ?_⟩
    · rintro rfl
      exact punchDirection_keyIn h
    · rintro rfl
      exact punchDirection_keyOut h
    · rintro rfl
      refine ⟨?_, ?_, ?_⟩
      · rintro i rfl hp
        rw [punchDirection_keyNone h, if_pos hp]
      · rintro i rfl hp
        rw [punchDirection_keyNone h, if_neg hp]
      · rintro rfl
        exact punchDirection_notFound h
  · have hiff : ∀ c, passes c ↔ c ∈ s.candidates crew t ∧ s.onShift t c = true := fun c => by
      rw [hpasses, mem_candidates, onShift_iff]
    refine ⟨?_, fun c hc => ?_⟩
    · simp only [resolve_eq_none, hiff, not_and]
    · obtain ⟨hmem, hbeats⟩ := resolve_some hc
      exact ⟨(hiff c).2 hmem, fun b hb => hbeats b ((hiff b).1 hb).1 ((hiff b).1 hb).2⟩

end Sys2Proof.Proofs
end


section
/-! PROOF. The commit of an IN and of an OUT (R98 to R101). -/

namespace Sys2Proof.Proofs

open Machine Laws

section Commit

variable {lane : Nat} {p : ReleasedPunch} {free : Bool} {s : State}

/-! ## The inside count and the flags -/

theorem insideAfter_inside (n : Nat) (before : Presence) :
    insideAfter n before .inside = if before = .inside then n else n + 1 := by
  cases before <;> rfl

theorem insideAfter_left {after : Presence} (h : after ≠ .inside) (n : Nat) (before : Presence) :
    insideAfter n before after = if before = .inside then n - 1 else n := by
  simp [insideAfter, h]

theorem setPresence_insideCount (i : Nat) (p : Presence) (s : State) :
    (setPresence i p s).insideCount = insideAfter s.insideCount (s.worker i).presence p := rfl

theorem setPresence_same (i : Nat) (p : Presence) (s : State) :
    (setPresence i p s).worker i = { s.worker i with presence := p } := setWorker_same ..

theorem setPresence_ne {i j : Nat} (h : j ≠ i) (p : Presence) (s : State) :
    (setPresence i p s).worker j = s.worker j := setWorker_ne _ _ _ _ h

/-- The soft flag sets its own of the seven flags (R89, R101). -/
theorem softFlags_eq (soft : Option Soft) : softFlags soft =
    ⟨false, decide (soft = some .softPassback), decide (soft = some .passbackOut), false, false, false, false⟩ := by
  rcases soft with _ | _ | _ <;> rfl

/-- The flags of a commit that has no other than those of the released punch (R101). -/
def commitFlags (free : Bool) (p : ReleasedPunch) : PunchFlags := { softFlags p.soft with freeLane := free }

theorem commitFlags_eq (free : Bool) (p : ReleasedPunch) : commitFlags free p =
    ⟨free, decide (p.soft = some .softPassback), decide (p.soft = some .passbackOut), false, false, false, false⟩ := by
  rw [commitFlags, softFlags_eq]

/-! ## The commit of an IN, by the attendance and the verdict time (R98, R99) -/

theorem commitPunch_reentry (hd : p.direction = .inward) (ha : (s.worker p.worker).attendance.isSome = true) :
    commitPunch lane p free s =
      offerEntry (punchBody lane p .admitted { commitFlags free p with reentry := true })
        (setPresence p.worker .inside s) := by
  obtain ⟨a, ha⟩ := Option.isSome_iff_exists.1 ha
  simp only [commitPunch, hd, commitIn, ha, commitFlags]

theorem commitPunch_noAttendance (hd : p.direction = .inward) (ha : (s.worker p.worker).attendance = none)
    (ht : p.verdictTime = none) : commitPunch lane p free s =
      offerEntry (punchBody lane p .admitted { commitFlags free p with noAttendance := true })
        (setPresence p.worker .inside s) := by
  simp only [commitPunch, hd, commitIn, ha, ht, commitFlags]

/-- What an attendance captures of the occurrence that the punch holds (R27). -/
theorem openingAttendance_held (t : Nat) (c : ShiftDay) (s : State) : s.openingAttendance t (some c) =
    { inTime := t, scheduled := some ⟨c.shift, c.start, c.stop⟩, dayKey := c.day
      deadline := min (c.stop + 60 * (s.shift c.shift).outWindow) 4294967295
      carried := false, carriedGross := 0, breakTaken := false } := rfl

/-- What an attendance captures when the punch holds none (R28). -/
theorem openingAttendance_free (t : Nat) (s : State) : s.openingAttendance t none =
    { inTime := t, scheduled := none, dayKey := t / 86400, deadline := min (t + 57600) 4294967295
      carried := false, carriedGross := 0, breakTaken := false } := rfl

/-- The state in which an IN has opened an attendance at its verdict time. -/
def openedAt (t : Nat) (p : ReleasedPunch) (s : State) : State :=
  (setPresence p.worker .inside s).setWorker p.worker
    { s.worker p.worker with presence := .inside, attendance := some (s.openingAttendance t p.held) }

theorem commitPunch_opens {t : Nat} (hd : p.direction = .inward) (ha : (s.worker p.worker).attendance = none)
    (ht : p.verdictTime = some t) : commitPunch lane p free s =
      offerEntry (punchBody lane p .admitted { commitFlags free p with unscheduled := p.held.isNone })
        (openedAt t p s) := by
  simp only [commitPunch, hd, commitIn, ha, ht, commitFlags, openedAt, setPresence_same]
  rfl

theorem openedAt_worker (t : Nat) (p : ReleasedPunch) (s : State) : (openedAt t p s).worker p.worker =
    { s.worker p.worker with presence := .inside, attendance := some (s.openingAttendance t p.held) } :=
  setWorker_same ..

theorem openedAt_worker_ne {j : Nat} (h : j ≠ p.worker) (t : Nat) (s : State) :
    (openedAt t p s).worker j = s.worker j :=
  (setWorker_ne _ _ _ _ h).trans (setPresence_ne h _ s)

/-! ## The commit of an OUT (R100) -/

/-- The state in which an OUT has written presence and inside count and offered its entry. -/
def leftAt (lane : Nat) (p : ReleasedPunch) (free : Bool) (s : State) : State :=
  offerEntry
    (punchBody lane p .admitted { commitFlags free p with orphanOut := (s.worker p.worker).attendance.isNone })
    (setPresence p.worker .outside s)

theorem commitPunch_orphan (hd : p.direction = .outward) (ha : (s.worker p.worker).attendance = none) :
    commitPunch lane p free s = leftAt lane p free s := by
  simp [commitPunch, hd, commitOut, ha, leftAt, commitFlags]

theorem commitPunch_pairs (hd : p.direction = .outward) (ha : (s.worker p.worker).attendance.isSome = true) :
    commitPunch lane p free s =
      callPairing p.worker .out (p.verdictTime.getD s.clock.gateTime) (s.worker p.worker).presence
        (leftAt lane p free s) := by
  simp only [commitPunch, hd, commitOut, ha, leftAt, commitFlags, if_true]

end Commit

/-- Settles O42: an IN by the attendance and the verdict time it finds, an OUT by the attendance it finds. -/
theorem punchesCommit : Obligations.PunchesCommit := by
  unfold Obligations.PunchesCommit
  refine ⟨fun lane p free s hd => ?_, fun lane p free s hd => ?_⟩
  · rw [← hd]
    have hcount := (setPresence_insideCount p.worker .inside s).trans (insideAfter_inside ..)
    have hflags := commitFlags_eq free p
    cases ha : (s.worker p.worker).attendance with
    | some a =>
      refine ⟨setPresence p.worker .inside s, { commitFlags free p with reentry := true },
        commitPunch_reentry hd (by rw [ha]; rfl), rfl, fun j hj => setPresence_ne hj _ s, hcount, ?_⟩
      simp [hflags, setPresence_same, ha]
    | none =>
      cases ht : p.verdictTime with
      | none =>
        refine ⟨setPresence p.worker .inside s, { commitFlags free p with noAttendance := true },
          (commitPunch_noAttendance hd ha ht).trans (by rw [punchBody, ht]; rfl), rfl,
          fun j hj => setPresence_ne hj _ s, hcount, ?_⟩
        simp [hflags, setPresence_same, ha]
      | some t =>
        refine ⟨openedAt t p s, { commitFlags free p with unscheduled := p.held.isNone },
          (commitPunch_opens hd ha ht).trans (by rw [punchBody, ht]; rfl), rfl,
          fun j hj => openedAt_worker_ne hj t s, hcount, ?_⟩
        rw [hflags, openedAt_worker]
        refine ⟨rfl, rfl, rfl, rfl, (nomatch ·), fun _ => (nomatch ·), fun t' _ h => ?_⟩
        obtain rfl := Option.some.inj h
        exact ⟨rfl, rfl, rfl, fun c hc => by rw [hc, openingAttendance_held],
          fun hn => by rw [hn, openingAttendance_free]⟩
  · rw [← hd]
    refine ⟨setPresence p.worker .outside s, _, rfl, setPresence_same .., fun j hj => setPresence_ne hj _ s,
      (setPresence_insideCount ..).trans (insideAfter_left (by decide) ..), rfl, fun e he => ?_⟩
    have he : e = leftAt lane p free s := by
      rw [he, leftAt, commitFlags_eq]
      rfl
    rw [he]
    refine ⟨fun ha => commitPunch_orphan hd ha, fun ha => ?_⟩
    rw [commitPunch_pairs hd ha]
    cases p.verdictTime <;> rfl

end Sys2Proof.Proofs
end


section
/-! PROOF. What a pairing writes, with its eight flags, the week index, and an attendance expiry (R2, R22, R102, R116, R117,
R119, R120, R134). -/

namespace Sys2Proof.Proofs

open Machine Laws

section Pairing

variable {s : State} {i : Nat}

/-! ## The record after a pairing (R116, R117, R119) -/

theorem makePairing_eq {a : Attendance} (h : (s.worker i).attendance = some a) (kind : PairKind) (raw : Nat)
    (p : Presence) : makePairing i kind raw p s =
      offerEntry
        (paylineBody i (s.computePay (s.worker i) a kind raw)
          (payFlags (s.worker i) a kind p (s.computePay (s.worker i) a kind raw)))
        (s.setWorker i
          ((s.worker i).paired a kind raw (s.weekIndex a.dayKey) (s.computePay (s.worker i) a kind raw))) := by
  simp only [makePairing, h]

theorem tallyMinutes_same (y : Tally) {key : Nat} (h : y.key = key) : tallyMinutes (some y) key = y.minutes := if_pos h

theorem tallyMinutes_rekeyed {tally : Option Tally} {key : Nat} (h : ∀ y, tally = some y → y.key ≠ key) :
    tallyMinutes tally key = 0 := by
  cases tally with
  | none => rfl
  | some y => exact if_neg (h y rfl)

/-- A tally after a pairing: raised by the pairing's minutes where its key stands (R116, R117). -/
def tallied (tally : Option Tally) (key minutes : Nat) : Option Tally :=
  some ⟨key, min (tallyMinutes tally key + minutes) 65535⟩

theorem tallied_same {tally : Option Tally} {y : Tally} {key : Nat} (minutes : Nat) (ht : tally = some y)
    (h : y.key = key) : tallied tally key minutes = some ⟨key, min (y.minutes + minutes) 65535⟩ := by
  rw [tallied, ht, tallyMinutes_same y h]

theorem tallied_rekeyed {tally : Option Tally} {key minutes : Nat} (h : ∀ y, tally = some y → y.key ≠ key)
    (hm : minutes ≤ 65535) : tallied tally key minutes = some ⟨key, minutes⟩ := by
  rw [tallied, tallyMinutes_rekeyed h, Nat.zero_add, min_eq_left hm]

/-- The record after a pairing, its tallies by `tallied`. -/
theorem paired_eq (w : Worker) (a : Attendance) (kind : PairKind) (raw week : Nat) (l : PayLine) :
    w.paired a kind raw week l =
      { w with
        attendance :=
          if kind = .split then
            some { a with
              inTime := raw, carried := true, carriedGross := min (a.carriedGross + l.gross) 86400
              breakTaken := l.breakTaken }
          else none
        dayTally := tallied w.dayTally a.dayKey l.worked, weekTally := tallied w.weekTally week l.regular
        live := w.live.add l } := by
  cases kind <;> rfl

/-- A count of the bank saturates when it cannot take its whole addition (R119). -/
theorem saturates_iff (b : Bank) (l : PayLine) : b.saturates l = true ↔
    65535 < b.regular + l.regular ∨ 65535 < b.ot1 + l.ot1 ∨ 65535 < b.ot2 + l.ot2 ∨ 65535 < b.night + l.night
      ∨ 4294967295 < b.pay + l.pay ∨ 65535 < b.pairings + 1 := by
  simp only [Bank.saturates, Bool.or_eq_true, decide_eq_true_eq, or_assoc]

/-! ## Minutes of one pairing fit a tally (R112 to R117) -/

/-- A pairing works at most 24 hours. -/
theorem computePay_worked_le (w : Worker) (a : Attendance) (kind : PairKind) (raw : Nat) :
    (s.computePay w a kind raw).worked ≤ 1440 := by
  simp only [State.computePay]
  refine Nat.div_le_of_le_mul ?_
  split <;> omega

theorem splitDay_regular_le (c : Crew) (d0 w : Nat) : (splitDay c d0 w).1 ≤ w := min_le_left ..

theorem splitWeek_regular_le (c : Crew) (w0 : Nat) (m : Nat × Nat × Nat) : (splitWeek c w0 m).1 ≤ m.1 := by
  unfold splitWeek
  dsimp only
  split
  · exact le_rfl
  · next h => exact (not_le.1 h).le

/-- Regular minutes are among the worked ones. -/
theorem computePay_regular_le (w : Worker) (a : Attendance) (kind : PairKind) (raw : Nat) :
    (s.computePay w a kind raw).regular ≤ (s.computePay w a kind raw).worked :=
  (splitWeek_regular_le ..).trans (splitDay_regular_le ..)

/-! ## The week index (R2, R22) -/

/-- The week index of the next day is the next one when that day's weekday is the week start. -/
theorem weekIndex_succ (d : Nat) (ho : s.clock.weekdayOffset ≤ 6) (hw : s.part.weekStart ≤ 6) :
    s.weekIndex (d + 1) =
      s.weekIndex d + if (d + 1 + s.clock.weekdayOffset) % 7 = s.part.weekStart then 1 else 0 := by
  unfold State.weekIndex
  split <;> omega

/-! ## An expiry (R102) -/

theorem expire_none (h : (s.worker i).attendance = none) : expire i s = s := by simp only [expire, h]

theorem expire_eq {a : Attendance} (h : (s.worker i).attendance = some a) :
    expire i s = setPresence i .unknown (callPairing i .autoClose a.deadline (s.worker i).presence s) := by
  simp only [expire, h]

/-- The pairing of an expiry leaves presence and inside count, so the count follows the presence from before it (R38). -/
theorem expire_insideCount {a : Attendance} (h : (s.worker i).attendance = some a) : (expire i s).insideCount =
    if (s.worker i).presence = .inside then s.insideCount - 1 else s.insideCount := by
  have hpaired := callPairing_settles i .autoClose a.deadline (s.worker i).presence s
  rw [expire_eq h, setPresence_insideCount, hpaired.presence, hpaired.insideCount, insideAfter_left (by decide)]

end Pairing

/-- Settles O45: the record by `paired_eq` and its tallies, the expiry by the pairing that it calls. -/
theorem pairingsAndExpiries : Obligations.PairingsAndExpiries := by
  unfold Obligations.PairingsAndExpiries
  refine ⟨fun i kind raw presence s a l ha hl => ?_, fun s d ho hw => ⟨rfl, weekIndex_succ d ho hw⟩, fun i s =>
    ⟨expire_none, fun a ha => ?_⟩⟩
  · have hworked : l.worked ≤ 1440 := hl ▸ computePay_worked_le ..
    have hregular : l.regular ≤ l.worked := hl ▸ computePay_regular_le ..
    have hpair := makePairing_eq ha kind raw presence
    rw [hl] at hpair
    refine ⟨_, _, hpair, rfl, fun j hj => setWorker_ne _ _ _ _ hj, ?_⟩
    rw [setWorker_same, paired_eq]
    exact ⟨rfl, rfl, rfl, rfl, rfl, rfl, rfl, fun y hy hk => tallied_same _ hy hk,
      fun hk => tallied_rekeyed hk (by omega), fun y hy hk => tallied_same _ hy hk,
      fun hk => tallied_rekeyed hk (by omega), rfl, rfl, rfl, rfl, rfl, rfl, rfl, saturates_iff ..⟩
  · obtain ⟨hclosed, hunknown⟩ := expire_expired (s := s) (i := i) (by rw [ha]; rfl)
    exact ⟨expire_eq ha, hclosed, hunknown, fun j hj => expire_worker_ne hj s, expire_insideCount ha⟩

end Sys2Proof.Proofs
end

section
/-! PROOF. TOTALS LATCH and TOTALS READ: the holding bank (R121 to R123). -/

namespace Sys2Proof.Proofs

open Machine Laws

section Totals

variable {s u : State} {tag : Byte} {c : ReplyCode} {data : List Byte}

/-! ## TOTALS READ (R123) -/

theorem totalsRead_bad {first : Half} {count : Byte} (h : 15 < count.toNat ∨ 4096 < first.toNat + count.toNat + 1) :
    totalsRead first count s = answer .badIndex s :=
  if_pos (badRun_of_outside h)

theorem totalsRead_good {first : Half} {count : Byte} (hc : count.toNat ≤ 15)
    (hf : first.toNat + count.toNat + 1 ≤ 4096) : totalsRead first count s =
      returns (runBytes (fun i => stampBytes (s.holdingEntry i).stamp ++ (s.holdingEntry i).bank.bytes) first.toNat
        (count.toNat + 1)) s :=
  if_neg (by rw [badRun_of_inside hc hf]; exact Bool.false_ne_true)

/-- TOTALS READ is answered as its block answers. -/
theorem exec_totalsRead {first : Half} {count : Byte} (h : Ready (.totalsRead tag first count) s)
    (hact : totalsRead first count s.taken = ⟨u, c, data⟩) :
    exec (.totalsRead tag first count) s = .next (u.reply 65#8 tag c data) :=
  congrArg Host.Outcome.next (request_ready h rfl hact)

/-- The stamp and the counts of a holding entry, count by count (R203). -/
theorem holdingBytes_eq (e : Holding) : stampBytes e.stamp ++ e.bank.bytes =
    stampBytes e.stamp ++ be16 e.bank.regular ++ be16 e.bank.ot1 ++ be16 e.bank.ot2 ++ be16 e.bank.night
      ++ be32 e.bank.pay ++ be16 e.bank.pairings := by
  simp only [Bank.bytes, List.append_assoc]

/-! ## TOTALS LATCH (R122) -/

/-- The holding bank in which every record is latched. -/
def allLatched (s : State) : Table Holding := (List.range Config.workerCount).map fun i => (i, s.latched i)

variable {selector : Half}

theorem totalsLatch_bad (h : 4096 ≤ selector.toNat) (hall : selector.toNat ≠ 65535) :
    totalsLatch selector s = answer .badIndex s :=
  (if_neg (not_lt.2 h)).trans (if_neg hall)

theorem totalsLatch_one (h : selector.toNat < 4096) : totalsLatch selector s =
    ⟨{ s with holding := Table.set Holding.never s.holding selector.toNat (s.latched selector.toNat) }, .ok,
      stampBytes (stampOf s.now)⟩ :=
  if_pos h

theorem totalsLatch_all (h : selector.toNat = 65535) : totalsLatch selector s =
    ⟨{ s with holding := allLatched s }, .ok, stampBytes (stampOf s.now)⟩ :=
  (if_neg (by rw [h]; decide)).trans (if_pos h)

/-- TOTALS LATCH is answered as its block answers. -/
theorem exec_totalsLatch (h : Ready (.totalsLatch tag selector) s)
    (hact : totalsLatch selector s.taken = ⟨u, c, data⟩) :
    exec (.totalsLatch tag selector) s = .next (u.reply 64#8 tag c data) :=
  congrArg Host.Outcome.next (request_ready h rfl hact)

/-- A state with another holding bank differs in its holding bank only. -/
theorem holding_only (bank : Table Holding) (h : u = { s with holding := bank }) :
    u = { s with holding := u.holding } := by
  rw [h]

/-- With ALL, every index of the bank holds its record's counts. -/
theorem allLatched_read (s : State) {i : Nat} (h : i < 4096) : Table.get Holding.never (allLatched s) i = s.latched i :=
  get_of_mem (List.pairwise_map.2 List.pairwise_lt_range) (List.mem_map.2 ⟨i, List.mem_range.2 h, rfl⟩)

/-- A latched entry carries the present stamp and the live counts, zeros for a FREE record. -/
theorem latched_items (s : State) (i : Nat) :
    (s.latched i).stamp = (if s.clock.valid then .time s.clock.gateTime else .unset)
      ∧ ((s.worker i).status ≠ .free → (s.latched i).bank = (s.worker i).live)
      ∧ ((s.worker i).status = .free → (s.latched i).bank = Bank.zero) :=
  ⟨stampOf_now s, fun h => if_pos (inUse_of_ne_free h),
    fun h => if_neg (by rw [inUse_of_free h]; exact Bool.false_ne_true)⟩

/-- The present stamp as the reply carries it (R202). -/
theorem nowBytes_eq (s : State) : stampBytes (stampOf s.now) =
    if s.clock.valid then 0#8 :: be32 s.clock.gateTime else [1#8, 0#8, 0#8, 0#8, 0#8] := by
  rw [stampOf_now]
  split <;> rfl

end Totals

/-- Settles O27: the request is answered as its block answers, each entry's bytes by `holdingBytes_eq`. -/
theorem totalsReadReplies : Obligations.TotalsReadReplies := by
  unfold Obligations.TotalsReadReplies
  refine fun tag first count s h => ⟨fun hbad => exec_totalsRead h (totalsRead_bad hbad), fun hc hf => ?_⟩
  have hgood := exec_totalsRead h (totalsRead_good hc hf)
  simp only [holdingBytes_eq, runBytes] at hgood
  exact hgood

/-- Settles O28: one entry is set, or all of them are listed; either way the entries written are the latched ones. -/
theorem totalsLatchCopies : Obligations.TotalsLatchCopies := by
  unfold Obligations.TotalsLatchCopies
  refine fun tag selector s h => ⟨fun hi hall => exec_totalsLatch h (totalsLatch_bad hi hall), fun hsel => ?_⟩
  rw [← nowBytes_eq]
  rcases hsel with hone | hall
  · refine ⟨_, exec_totalsLatch h (totalsLatch_one hone), holding_only _ rfl, fun i _ hi => ?_,
      fun i hi _ => get_set_ne hi.symm⟩
    obtain rfl : selector.toNat = i := hi.resolve_right (by omega)
    rw [State.holdingEntry, get_set_same]
    exact latched_items s _
  · refine ⟨_, exec_totalsLatch h (totalsLatch_all hall), holding_only _ rfl, fun i hi _ => ?_,
      fun i _ hne => absurd hall hne⟩
    rw [State.holdingEntry, allLatched_read _ hi]
    exact latched_items s i

end Sys2Proof.Proofs
end

section
/-! PROOF. The Pay Engine's stages 1 to 7: the rounded times, the gross and the break, the tiers, the night minutes and
the pay (R21, R110 to R118). -/

namespace Sys2Proof.Proofs

open Machine Laws

/-! ## The grid (R109 to R111) -/

/-- The first grid time at or after `x`. -/
def gridUp (anchor step x : Int) : Int := anchor + step * ceilDiv (x - anchor) step

/-- The last grid time at or before `x`. -/
def gridDown (anchor step x : Int) : Int := anchor + step * ((x - anchor) / step)

theorem gridDown_spec {step : Int} (h : 0 < step) (anchor x : Int) : gridDown anchor step x ≤ x
    ∧ x < gridDown anchor step x + step ∧ step ∣ gridDown anchor step x - anchor := by
  have hparts : step * ((x - anchor) / step) + (x - anchor) % step = x - anchor := Int.mul_ediv_add_emod ..
  have hlo : 0 ≤ (x - anchor) % step := Int.emod_nonneg _ h.ne'
  have hhi : (x - anchor) % step < step := Int.emod_lt_of_pos _ h
  unfold gridDown
  exact ⟨by omega, by omega, ⟨_, add_sub_cancel_left ..⟩⟩

/-- Rounding up is rounding down seen from the other side of the anchor. -/
theorem gridUp_eq (anchor step x : Int) : gridUp anchor step x = -gridDown (-anchor) step (-x) := by
  unfold gridUp gridDown ceilDiv
  rw [show -(x - anchor) = -x - -anchor by omega]
  ring

theorem gridUp_spec {step : Int} (h : 0 < step) (anchor x : Int) :
    x ≤ gridUp anchor step x ∧ gridUp anchor step x < x + step ∧ step ∣ gridUp anchor step x - anchor := by
  obtain ⟨hle, hlt, hdvd⟩ := gridDown_spec h (-anchor) (-x)
  rw [gridUp_eq]
  refine ⟨by omega, by omega, ?_⟩
  rw [show -gridDown (-anchor) step (-x) - anchor = -(gridDown (-anchor) step (-x) - -anchor) by omega]
  exact hdvd.neg_right

/-! ## Stage 1: the rounded times (R110, R111) -/

section Rounding

variable {sh : Shift} {a : Attendance} {c : Scheduled} {raw : Nat}

/-- An in time within the graces of a scheduled start (R110). -/
def InGrace (sh : Shift) (c : Scheduled) (t : Nat) : Prop :=
  (c.start : Int) - 60 * sh.earlyGrace ≤ t ∧ (t : Int) ≤ c.start + 60 * sh.lateGrace

/-- An out time within the exit grace of a scheduled end (R111). -/
def OutGrace (sh : Shift) (c : Scheduled) (t : Nat) : Prop :=
  (c.stop : Int) - 60 * sh.exitGrace ≤ t ∧ (t : Int) ≤ c.stop + 60 * sh.exitGrace

theorem inGrace_iff {t : Nat} : InGrace sh c t ↔
    (c.start : Int) - 60 * sh.earlyGrace ≤ t ∧ t ≤ c.start + 60 * sh.lateGrace :=
  and_congr_right fun _ => by omega

theorem outGrace_iff {t : Nat} : OutGrace sh c t ↔
    (c.stop : Int) - 60 * sh.exitGrace ≤ t ∧ t ≤ c.stop + 60 * sh.exitGrace :=
  and_congr_right fun _ => by omega

theorem anchor_scheduled (h : a.scheduled = some c) : a.anchor = c.start := by simp only [Attendance.anchor, h]

theorem anchor_unscheduled (h : a.scheduled = none) : a.anchor = 86400 * a.dayKey := by
  simp only [Attendance.anchor, h]

theorem roundIn_carried (h : a.carried = true) : roundIn sh a = a.inTime := if_pos h

theorem roundIn_graced (hc : a.carried = false) (hs : a.scheduled = some c) (hg : InGrace sh c a.inTime) :
    roundIn sh a = c.start := by
  simp only [roundIn, hc, hs, Bool.false_eq_true, if_false]
  exact if_pos (inGrace_iff.1 hg)

theorem roundIn_ungraced (hc : a.carried = false) (hs : a.scheduled = some c) (hg : ¬ InGrace sh c a.inTime) :
    roundIn sh a = gridUp c.start (60 * sh.quantum) a.inTime := by
  rw [← anchor_scheduled hs]
  simp only [roundIn, hc, hs, Bool.false_eq_true, if_false]
  exact if_neg (mt inGrace_iff.2 hg)

theorem roundIn_unscheduled (hc : a.carried = false) (hs : a.scheduled = none) :
    roundIn sh a = gridUp (86400 * a.dayKey) (60 * sh.quantum) a.inTime := by
  rw [← anchor_unscheduled hs]
  simp only [roundIn, hc, hs]
  rfl

theorem roundOut_split : roundOut .split sh a raw = raw := rfl

theorem roundOut_autoClose (hs : a.scheduled = some c) : roundOut .autoClose sh a raw = c.stop := by
  simp only [roundOut, hs]

theorem roundOut_autoClose_unscheduled (hs : a.scheduled = none) : roundOut .autoClose sh a raw = roundIn sh a := by
  simp only [roundOut, hs]

theorem roundOut_graced (hs : a.scheduled = some c) (hg : OutGrace sh c raw) : roundOut .out sh a raw = c.stop := by
  simp only [roundOut, hs]
  exact if_pos (outGrace_iff.1 hg)

theorem roundOut_ungraced (hs : a.scheduled = some c) (hg : ¬ OutGrace sh c raw) :
    roundOut .out sh a raw = gridDown c.start (60 * sh.quantum) raw := by
  rw [← anchor_scheduled hs]
  simp only [roundOut, hs]
  exact if_neg (mt outGrace_iff.2 hg)

theorem roundOut_unscheduled (hs : a.scheduled = none) :
    roundOut .out sh a raw = gridDown (86400 * a.dayKey) (60 * sh.quantum) raw := by
  rw [← anchor_unscheduled hs]
  simp only [roundOut, hs]
  rfl

theorem gridStep_pos (h : 0 < sh.quantum) : (0 : Int) < 60 * sh.quantum := by omega

end Rounding

/-! ## Stage 6: the tiers (R116, R117) -/

/-- The weekly split moves the regular minutes beyond the week's room to OT1 and leaves OT2. -/
theorem splitWeek_eq (c : Crew) (w0 r o1 o2 : Nat) : splitWeek c w0 (r, o1, o2) =
    (min r (c.wr - w0), o1 + (r - min r (c.wr - w0)), o2) := by
  unfold splitWeek
  dsimp only
  split
  · next h => rw [min_eq_left h, Nat.sub_self, Nat.add_zero]
  · next h => rw [min_eq_right (not_le.1 h).le]

/-- The two splits, tier by tier. -/
theorem tiers_eq {c : Crew} {d0 w0 w r o1 o2 : Nat} (h : splitWeek c w0 (splitDay c d0 w) = (r, o1, o2)) :
    r = min (min w (c.dr - d0)) (c.wr - w0)
      ∧ o2 = (w - min w (c.dr - d0)) - min (w - min w (c.dr - d0)) (c.dl - max d0 c.dr)
      ∧ r + o1 + o2 = w := by
  rw [splitDay, splitWeek_eq] at h
  obtain ⟨rfl, rfl, rfl⟩ : _ = r ∧ _ = o1 ∧ _ = o2 := by simpa only [Prod.mk.injEq] using h
  exact ⟨rfl, rfl, by omega⟩

/-- Settles O44: each rounded time is what stands, a scheduled bound, or a grid time; the tiers by `tiers_eq`. -/
theorem roundingAndTiers : Obligations.RoundingAndTiers := by
  unfold Obligations.RoundingAndTiers
  refine ⟨⟨fun sh a hc => roundIn_carried hc,
    fun sh a c hc hs hq => ⟨fun hlo hhi => roundIn_graced hc hs ⟨hlo, hhi⟩, fun hg => ?_⟩,
    fun sh a hc hs hq => ?_, fun sh a raw => roundOut_split, fun sh a c raw hs => roundOut_autoClose hs,
    fun sh a raw hs => roundOut_autoClose_unscheduled hs,
    fun sh a c raw hs hq => ⟨fun hlo hhi => roundOut_graced hs ⟨hlo, hhi⟩, fun hg => ?_⟩,
    fun sh a raw hs hq => ?_⟩, fun c d0 w0 w r o1 o2 h => tiers_eq h⟩
  · rw [roundIn_ungraced hc hs hg]
    exact gridUp_spec (gridStep_pos hq) ..
  · rw [roundIn_unscheduled hc hs]
    exact gridUp_spec (gridStep_pos hq) ..
  · rw [roundOut_ungraced hs hg]
    exact gridDown_spec (gridStep_pos hq) ..
  · rw [roundOut_unscheduled hs]
    exact gridDown_spec (gridStep_pos hq) ..

/-! ## Stage 7: night minutes (R21, R115) -/

section Night

variable {s : State}

theorem overlap_empty (a b c : Int) : overlap a b c c = 0 := by
  unfold overlap
  omega

theorem nightWindow_none (h : s.part.nightStart = s.part.nightEnd) (d : Int) :
    (s.nightWindow d).1 = (s.nightWindow d).2 := by
  simp only [State.nightWindow, if_pos h.symm]

/-- The window of a day: to its end on that day, or on the next where it spans midnight. -/
theorem nightWindow_eq (h : s.part.nightStart ≠ s.part.nightEnd) (d : Int) : s.nightWindow d =
    (86400 * d + 60 * s.part.nightStart,
      86400 * d + 60 * s.part.nightEnd + if s.part.nightStart < s.part.nightEnd then 0 else 86400) := by
  simp only [State.nightWindow, if_neg h.symm]
  split
  · rw [mul_comm d, add_zero]
  · rw [Prod.mk.injEq]
    omega

/-- Whether the window of a day counts: a free value for a day that is no day number (log entry 9). -/
def nightCounts (d : Int) : Bool :=
  if d < 0 then Config.nightBeforeDayZero else if 49710 < d then Config.nightPastLastDay else true

theorem nightCounts_before {d : Int} (h : d < 0) : nightCounts d = Config.nightBeforeDayZero := if_pos h

theorem nightCounts_past {d : Int} (h : 49710 < d) : nightCounts d = Config.nightPastLastDay :=
  (if_neg (by omega)).trans (if_pos h)

theorem nightCounts_day {d : Int} (h : 0 ≤ d ∧ d ≤ 49710) : nightCounts d = true :=
  (if_neg (not_lt.2 h.1)).trans (if_neg (not_lt.2 h.2))

/-- The night seconds of a span that lie in the window of one day. -/
def nightOn (s : State) (start stop d : Int) : Nat :=
  if nightCounts d then overlap start stop (s.nightWindow d).1 (s.nightWindow d).2 else 0

theorem nightOn_day {d : Int} (h : 0 ≤ d ∧ d ≤ 49710) (start stop : Int) :
    nightOn s start stop d = overlap start stop (s.nightWindow d).1 (s.nightWindow d).2 :=
  if_pos (nightCounts_day h)

/-- A day that is no day number: its free value is asked only where its window meets the span. -/
theorem nightOn_noDay {d : Int} (h : ¬ (0 ≤ d ∧ d ≤ 49710)) (start stop : Int) :
    nightOn s start stop d =
      if overlap start stop (s.nightWindow d).1 (s.nightWindow d).2 = 0 then 0
      else if (if d < 0 then Config.nightBeforeDayZero else Config.nightPastLastDay) then
        overlap start stop (s.nightWindow d).1 (s.nightWindow d).2
      else 0 := by
  have hcounts : nightCounts d = if d < 0 then Config.nightBeforeDayZero else Config.nightPastLastDay := by
    split
    · next h0 => exact nightCounts_before h0
    · next h0 => exact nightCounts_past (by omega)
  rw [nightOn, hcounts]
  by_cases h0 : overlap start stop (s.nightWindow d).1 (s.nightWindow d).2 = 0
  · rw [if_pos h0, h0, ite_self]
  · rw [if_neg h0]

/-- Night seconds are those of each day from the span's first day less one to the day of its end. -/
theorem nightSeconds_eq (start stop : Int) : s.nightSeconds start stop =
    ((List.range (stop / 86400 - start / 86400 + 2).toNat).map fun k =>
      nightOn s start stop (start / 86400 - 1 + k)).sum := by
  unfold State.nightSeconds
  dsimp only
  rw [List.map_map]
  congr 2
  funext k
  dsimp only [Function.comp_apply]
  split
  · next h => exact (nightOn_day h ..).symm
  · next h => exact (nightOn_noDay h ..).symm

theorem nightSeconds_none (h : s.part.nightStart = s.part.nightEnd) (start stop : Int) :
    s.nightSeconds start stop = 0 := by
  rw [nightSeconds_eq]
  refine List.sum_eq_zero fun n hn => ?_
  obtain ⟨k, -, rfl⟩ := List.mem_map.1 hn
  rw [nightOn, nightWindow_none h, overlap_empty, ite_self]

/-- The night seconds of one day where there is a window, in the bounds of that window. -/
theorem nightOn_window (h : s.part.nightStart ≠ s.part.nightEnd) {counts : Int → Bool}
    (hcounts : ∀ d, counts d = nightCounts d) (start stop d : Int) :
    nightOn s start stop d =
      if counts d then
        (min stop (86400 * d + 60 * s.part.nightEnd + if s.part.nightStart < s.part.nightEnd then 0 else 86400)
          - max start (86400 * d + 60 * s.part.nightStart)).toNat
      else 0 := by
  rw [nightOn, nightWindow_eq h, hcounts]
  rfl

end Night

/-! ## The stages of a pairing (R112 to R118) -/

section Stages

variable {s : State} {w : Worker} {a : Attendance} {kind : PairKind} {rawOut : Nat} {l : PayLine}

/-- Whether a pairing deducts the break: not deducted before, and the gross of the whole attendance at the threshold
(R113). -/
def takesBreak (sh : Shift) (a : Attendance) (gross : Nat) : Bool :=
  !a.breakTaken && decide (0 < sh.break_) && decide (60 * sh.threshold ≤ a.carriedGross + gross)

theorem takesBreak_iff {sh : Shift} {gross : Nat} : takesBreak sh a gross = true ↔
    a.breakTaken = false ∧ 0 < sh.break_ ∧ 60 * sh.threshold ≤ a.carriedGross + gross := by
  simp only [takesBreak, Bool.and_eq_true, Bool.not_eq_true', decide_eq_true_eq, and_assoc]

variable (hl : s.computePay w a kind rawOut = l)
include hl

/-- The gross of a pairing, cut at 24 hours (R112). -/
theorem computePay_gross : l.gross = min (grossOf l.roundedIn l.roundedOut a.inTime rawOut) 86400 := by
  subst hl; rfl

theorem computePay_gross_forward (h : a.inTime ≤ rawOut) :
    l.gross = min (l.roundedOut - l.roundedIn).toNat 86400 := by
  rw [computePay_gross hl, grossOf_forward h]

/-- The two readings of the gross of a NEGATIVE pairing (log entry 38). -/
theorem computePay_gross_cases : l.gross = 0 ∨ l.gross = min (l.roundedOut - l.roundedIn).toNat 86400 := by
  rw [computePay_gross hl]
  rcases grossOf_cases l.roundedIn l.roundedOut a.inTime rawOut with h | h
  · exact .inl (by rw [h, Nat.zero_min])
  · exact .inr (by rw [h])

/-- LONG tells that the gross was cut. -/
theorem computePay_long_iff : l.long = true ↔ 86400 < grossOf l.roundedIn l.roundedOut a.inTime rawOut := by
  subst hl
  exact decide_eq_true_iff

theorem computePay_gross_long (h : l.long = true) : l.gross = 86400 := by
  rw [computePay_gross hl, min_eq_right ((computePay_long_iff hl).1 h).le]

theorem computePay_breakTaken_iff : l.breakTaken = true ↔
    a.breakTaken = true ∨ 0 < (s.payTables w a).shift.break_
      ∧ 60 * (s.payTables w a).shift.threshold ≤ a.carriedGross + l.gross := by
  have hor : l.breakTaken = (a.breakTaken || takesBreak (s.payTables w a).shift a l.gross) := by subst hl; rfl
  rw [hor, Bool.or_eq_true, takesBreak_iff]
  cases a.breakTaken <;> simp

/-- Worked minutes are whole (R114). -/
theorem computePay_worked : l.worked =
    (if takesBreak (s.payTables w a).shift a l.gross then l.gross - 60 * (s.payTables w a).shift.break_
      else l.gross) / 60 := by
  subst hl; rfl

theorem computePay_worked_break (h : takesBreak (s.payTables w a).shift a l.gross = true) :
    l.worked = (l.gross - 60 * (s.payTables w a).shift.break_) / 60 := by
  rw [computePay_worked hl, if_pos h]

theorem computePay_worked_whole (h : a.breakTaken = true ∨ (s.payTables w a).shift.break_ = 0
    ∨ a.carriedGross + l.gross < 60 * (s.payTables w a).shift.threshold) : l.worked = l.gross / 60 := by
  rw [computePay_worked hl, if_neg fun ht => ?_]
  obtain ⟨hbefore, hbreak, hreached⟩ := takesBreak_iff.1 ht
  rcases h with h | h | h
  · exact Bool.false_ne_true (hbefore.symm.trans h)
  · exact hbreak.ne' h
  · exact not_le.2 h hreached

/-- The tiers are those of the daily and then the weekly split, after the minutes of the tallies (R116, R117). -/
theorem computePay_tiers :
    splitWeek (s.crew w.crew) (tallyMinutes w.weekTally (s.weekIndex a.dayKey))
      (splitDay (s.crew w.crew) (tallyMinutes w.dayTally a.dayKey) l.worked) = (l.regular, l.ot1, l.ot2) := by
  subst hl; rfl

/-- Night minutes are whole, and at most the worked ones (R115). -/
theorem computePay_night :
    l.night = min (s.nightSeconds l.roundedIn (l.roundedIn + l.gross) / 60) l.worked := by
  subst hl; rfl

theorem computePay_night_none (h : s.part.nightStart = s.part.nightEnd) : l.night = 0 := by
  rw [computePay_night hl, nightSeconds_none h, Nat.zero_div, Nat.zero_min]

end Stages

/-- Settles O43: the fields of the pairing's results stage by stage, each from the lemma of its stage. -/
theorem pairingStages : Obligations.PairingStages := by
  unfold Obligations.PairingStages
  rintro s w a kind rawOut _ rfl _ rfl
  obtain ⟨hregular, -, hsum⟩ := tiers_eq (computePay_tiers rfl)
  refine ⟨rfl, rfl, decide_eq_true_iff, computePay_gross_forward rfl, fun _ => computePay_gross_cases rfl,
    fun h => ?_, computePay_gross_long rfl, computePay_breakTaken_iff rfl,
    fun h0 h1 h2 => computePay_worked_break rfl (takesBreak_iff.2 ⟨h0, h1, h2⟩), computePay_worked_whole rfl,
    fun d0 w0 hd hw => ?_, hsum, computePay_worked_le w a kind rawOut, min_le_right .., computePay_night_none rfl,
    fun h counts hc => ?_, ?_, ?_, rfl⟩
  · rw [computePay_long_iff rfl, grossOf_forward h]
  · rw [hd, hw]
    exact (computePay_tiers rfl).symm
  · rw [computePay_night rfl, nightSeconds_eq]
    simp only [nightOn_window h hc]
  · exact hregular.trans_le ((min_le_left ..).trans ((min_le_right ..).trans (Nat.sub_le ..)))
  · exact hregular.trans_le ((min_le_right ..).trans (Nat.sub_le ..))

end Sys2Proof.Proofs
end

section
/-! SUPPORT. Which operations touch the evacuation phase, the causes, the fire level and the close phase: those that
leave them, each in one equation (R126, R137, R171, R173, R181). -/

namespace Sys2Proof.Proofs

open Machine Laws

/-- The items that `PhasesAgree` speaks of. -/
def phaseItems (s : State) : Bool × Causes × Bool × ClosePhase × Bool :=
  (s.evac.evacuating, s.evac.causes, s.evac.fireLevel, s.close.phase, s.close.gatherTimer.isSome)

/-- All that `PhasesAgree` asks, but for the fire level: true as well while FIRE is about to be taken. -/
structure CausesAgree (s : State) : Prop where
  causes : s.evac.evacuating = false → s.evac.causes = Causes.empty
  walking : s.close.phase = .walking → s.evac.evacuating = false
  suspended : s.close.phase = .suspended → s.evac.evacuating = true
  gather : s.close.gatherTimer.isSome = true ↔ s.close.phase = .gathering

theorem phasesAgree_iff {s : State} :
    PhasesAgree s ↔ CausesAgree s ∧ (s.evac.fireLevel = true → s.evac.evacuating = true) :=
  ⟨fun ⟨hc, hf, hw, hs, hg⟩ => ⟨⟨hc, hw, hs, hg⟩, hf⟩, fun ⟨⟨hc, hw, hs, hg⟩, hf⟩ => ⟨hc, hf, hw, hs, hg⟩⟩

section Same

variable {s t : State}

/-- States with the same items agree alike. -/
theorem causesAgree_same (e : phaseItems t = phaseItems s) (h : CausesAgree s) : CausesAgree t := by
  simp only [phaseItems, Prod.mk.injEq] at e
  obtain ⟨he, hc, -, hp, hg⟩ := e
  constructor <;> simp only [he, hc, hp, hg]
  exacts [h.causes, h.walking, h.suspended, h.gather]

theorem phasesAgree_same (e : phaseItems t = phaseItems s) (h : PhasesAgree s) : PhasesAgree t := by
  obtain ⟨hc, hf⟩ := phasesAgree_iff.1 h
  refine phasesAgree_iff.2 ⟨causesAgree_same e hc, ?_⟩
  simp only [phaseItems, Prod.mk.injEq] at e
  obtain ⟨he, -, hl, -⟩ := e
  rwa [he, hl]

end Same

section Frame

variable (s : State)

/-! ## Shared operations -/

theorem foldl_phases {β : Type} {f : State → β → State} (hf : ∀ u b, phaseItems (f u b) = phaseItems u) (l : List β)
    (s : State) : phaseItems (l.foldl f s) = phaseItems s := by
  induction l generalizing s with
  | nil => rfl
  | cons b l ih => rw [List.foldl_cons, ih, hf]

theorem sends_phases {t u : State} (h : Sends t u) : phaseItems u = phaseItems t := by
  obtain ⟨q, rfl, -⟩ := h
  rfl

/-- Operations on worker records write no more of the close record than its three counts. -/
theorem pays_phases {t u : State} (h : Pays t u) : phaseItems u = phaseItems t := by
  obtain ⟨_, _, _, _, _, _, _, _, rfl⟩ := h.form
  rfl

@[simp] theorem setWorker_phases (i : Nat) (w : Worker) : phaseItems (s.setWorker i w) = phaseItems s := rfl
@[simp] theorem setLane_phases (n : Nat) (l : Lane) : phaseItems (s.setLane n l) = phaseItems s := rfl
@[simp] theorem setArbiter_phases (o : Nat) (a : Arbiter) : phaseItems (s.setArbiter o a) = phaseItems s := rfl
@[simp] theorem setPresence_phases (i : Nat) (p : Presence) : phaseItems (setPresence i p s) = phaseItems s := rfl
@[simp] theorem offerEntry_phases (b : EntryBody) : phaseItems (offerEntry b s) = phaseItems s :=
  pays_phases (offerEntry_pays b s)
@[simp] theorem reachRecord_phases (i : Nat) (p : Presence) : phaseItems (reachRecord i p s) = phaseItems s :=
  pays_phases (reachRecord_pays i p s)
@[simp] theorem takeExpiries_phases : phaseItems (takeExpiries s) = phaseItems s := pays_phases (takeExpiries_pays s)
@[simp] theorem commitPunch_phases (n : Nat) (p : ReleasedPunch) (free : Bool) :
    phaseItems (commitPunch n p free s) = phaseItems s :=
  pays_phases (commitPunch_pays n p free s)
@[simp] theorem flagJournal_phases (high full : Bool) : phaseItems (flagJournal high full s) = phaseItems s :=
  (sends_phases (flagJournal_spec high full s)).trans rfl
@[simp] theorem updateJournalConditions_phases (before : State) :
    phaseItems (updateJournalConditions before s) = phaseItems s := flagJournal_phases s _ _
@[simp] theorem flagEvacuating_phases : phaseItems (flagEvacuating s) = phaseItems s :=
  (sends_phases (flagEvacuating_spec s)).trans rfl
@[simp] theorem flagCloseDone_phases : phaseItems (flagCloseDone s) = phaseItems s :=
  (sends_phases (flagCloseDone_spec s)).trans rfl

/-! ## Lanes -/

@[simp] theorem setConditions_phases (n : Nat) (c : LaneConditions) :
    phaseItems (setConditions n c s) = phaseItems s := (sends_phases (setConditions_spec n c s)).trans rfl
@[simp] theorem endRelease_phases (n : Nat) (next : LaneState) : phaseItems (endRelease n next s) = phaseItems s :=
  (pays_phases (endRelease_pays n next s)).trans rfl
@[simp] theorem endExchange_phases (n : Nat) : phaseItems (endExchange n s) = phaseItems s := rfl
@[simp] theorem sendVerdict_phases (n : Nat) (v : Verdict) (d : Nat) :
    phaseItems (sendVerdict n v d s) = phaseItems s := rfl
@[simp] theorem openLane_phases (n : Nat) : phaseItems (openLane n s) = phaseItems s := rfl
@[simp] theorem releaseLane_phases (n : Nat) (p : Option ReleasedPunch) :
    phaseItems (releaseLane n p s) = phaseItems s := rfl
@[simp] theorem stampPunch_phases (n i : Nat) : phaseItems (stampPunch n i s) = phaseItems s := rfl
@[simp] theorem tamperTaken_phases (n : Nat) (on : Bool) : phaseItems (tamperTaken n on s) = phaseItems s :=
  setConditions_phases ..

@[simp] theorem loseLane_phases (n : Nat) : phaseItems (loseLane n s) = phaseItems s := by
  unfold loseLane
  simp only [setConditions_phases, setLane_phases]
  split <;> simp
@[simp] theorem missedReply_phases (n : Nat) : phaseItems (missedReply n s) = phaseItems s := by
  unfold missedReply
  dsimp only
  split
  · rfl
  · split <;> simp
@[simp] theorem goodReply_phases (n : Nat) : phaseItems (goodReply n s) = phaseItems s := by
  unfold goodReply
  dsimp only
  split
  · split <;> simp
  · rfl
theorem headEvent_phases (n : Nat) (bit : Bool) {act : State → State}
    (h : ∀ u, phaseItems (act u) = phaseItems u) : phaseItems (headEvent n bit act s) = phaseItems s := by
  unfold headEvent
  split
  · dsimp only
    split
    · simp
    · split <;> simp [h]
  · rfl
@[simp] theorem refusePunch_phases (n c : Nat) (k : HeadKey) (r : Reason) :
    phaseItems (refusePunch n c k r s) = phaseItems s := by
  unfold refusePunch
  simp only [offerEntry_phases, setLane_phases, sendVerdict_phases]
  split
  · split <;> rfl
  · rfl
@[simp] theorem musterPunch_phases (n c : Nat) : phaseItems (musterPunch n c s).1 = phaseItems s := by
  unfold musterPunch
  split
  · simp
  · simp only [offerEntry_phases]
    split <;> rfl
@[simp] theorem evaluatePunch_phases (n c : Nat) (k : HeadKey) : phaseItems (evaluatePunch n c k s) = phaseItems s := by
  unfold evaluatePunch
  split
  · dsimp only
    split <;> simp
  · simp
  · rfl
  · simp
@[simp] theorem punchTaken_phases (n c : Nat) (k : HeadKey) : phaseItems (punchTaken n c k s) = phaseItems s := by
  unfold punchTaken
  split
  · simp
  · split <;> simp
  · rfl
@[simp] theorem doorOpened_phases (n : Nat) : phaseItems (doorOpened n s) = phaseItems s := by
  unfold doorOpened
  dsimp only
  split
  · split <;> simp
  · split <;> simp
  · rfl
@[simp] theorem doorClosed_phases (n : Nat) : phaseItems (doorClosed n s) = phaseItems s := by
  unfold doorClosed
  dsimp only
  split <;> simp
@[simp] theorem setMode_phases (n : Nat) (m : LaneMode) : phaseItems (setMode n m s) = phaseItems s := by
  unfold setMode
  dsimp only
  split
  · simp
  · split <;> rfl
@[simp] theorem laneWritten_phases (before : State) (n : Nat) :
    phaseItems (laneWritten before s n) = phaseItems s := by
  unfold laneWritten
  split
  · rfl
  · simp [disableLane]
  · rfl
@[simp] theorem writeLanes_phases (first : Nat) (l : List LaneRecord) :
    phaseItems (writeLanes first l s) = phaseItems s :=
  foldl_phases (f := laneWritten s) (fun u n => laneWritten_phases u s n) _ _

/-! ## Bells -/

@[simp] theorem ringOutputs_phases (m : Byte) (r : BellRequest) : phaseItems (ringOutputs m r s) = phaseItems s :=
  foldl_phases (f := ringOutput r) (fun _ _ => rfl) _ s
@[simp] theorem fireEntry_phases (time i : Nat) : phaseItems (fireEntry time s i) = phaseItems s := by
  unfold fireEntry
  dsimp only
  split
  · exact ringOutputs_phases ..
  · rfl
@[simp] theorem fireBells_phases (previous new : Nat) : phaseItems (fireBells previous new s) = phaseItems s :=
  foldl_phases (f := fireAt)
    (fun u time => foldl_phases (f := fireEntry time) (fun v i => fireEntry_phases v time i) _ u) _ s
@[simp] theorem soundTone_phases : phaseItems (soundTone s) = phaseItems s := by
  obtain ⟨⟨a, h⟩, -⟩ := soundTone_spec s
  rw [h]
  rfl

end Frame

/-! ## The blocks that answer requests -/

section Blocks

variable {s : State}

/-- A block that refuses with the state as it is, or else leaves the items. -/
theorem refused_phases {bad : Prop} [Decidable bad] {c : ReplyCode} {a : Answer}
    (h : phaseItems a.state = phaseItems s) : phaseItems (if bad then answer c s else a).state = phaseItems s := by
  split
  · rfl
  · exact h

theorem statusRead_phases (clear : Byte) : phaseItems (statusRead clear s).state = phaseItems s := by
  unfold statusRead
  split
  · rfl
  · dsimp only
    split <;> rfl

theorem alertMaskSet_phases (mask enable : Byte) : phaseItems (alertMaskSet mask enable s).state = phaseItems s := by
  unfold alertMaskSet
  split <;> rfl

theorem writeRun_phases (t : TableId) (first n : Nat) (records : List Byte) :
    phaseItems (writeRun t first n records s).state = phaseItems s := by
  cases t <;> unfold writeRun <;> dsimp only
  case lane =>
    split
    · exact writeLanes_phases ..
    · rfl
  case part =>
    split
    · exact updateJournalConditions_phases ..
    · rfl
  all_goals split <;> rfl

theorem tableWrite_phases (table first count : Byte) (records : List Byte) :
    phaseItems (tableWrite table first count records s).state = phaseItems s := by
  unfold tableWrite
  split
  · rfl
  · exact refused_phases (refused_phases (writeRun_phases ..))

theorem tableRead_phases (table first count : Byte) :
    phaseItems (tableRead table first count s).state = phaseItems s := by
  unfold tableRead
  split
  · rfl
  · exact refused_phases rfl

theorem workerSet_phases (index : Half) (status crew rateClass flags : Byte) :
    phaseItems (workerSet index status crew rateClass flags s).state = phaseItems s := by
  refine refused_phases ?_
  split
  · rfl
  · exact refused_phases rfl

theorem presenceSet_phases (index : Half) (presence : Byte) :
    phaseItems (presenceSet index presence s).state = phaseItems s := by
  refine refused_phases ?_
  split
  · rfl
  · exact refused_phases (offerEntry_phases ..)

theorem badgeFind_phases (code : Word) : phaseItems (badgeFind code s).state = phaseItems s := by
  refine refused_phases ?_
  split <;> rfl

theorem laneMode_phases (lane : Byte) (m : LaneMode) : phaseItems (laneMode lane m s).state = phaseItems s :=
  refused_phases (setMode_phases ..)

theorem lanePulse_phases (lane : Byte) : phaseItems (lanePulse lane s).state = phaseItems s :=
  refused_phases (refused_phases (refused_phases (refused_phases (refused_phases (offerEntry_phases ..)))))

theorem countersLatch_phases (selector : Byte) : phaseItems (countersLatch selector s).state = phaseItems s := by
  unfold countersLatch
  split
  · rfl
  · exact foldl_phases (f := latchLane) (fun _ _ => rfl) _ s

theorem countersRead_phases (selector : Byte) : phaseItems (countersRead selector s).state = phaseItems s := by
  unfold countersRead
  split <;> rfl

theorem countersReset_phases (selector : Byte) : phaseItems (countersReset selector s).state = phaseItems s := by
  unfold countersReset
  split
  · rfl
  · exact foldl_phases (f := resetLane) (fun _ _ => rfl) _ s

theorem setHolding_phases (holding : Table Holding) : phaseItems { s with holding := holding } = phaseItems s := rfl

theorem totalsLatch_phases (selector : Half) : phaseItems (totalsLatch selector s).state = phaseItems s := by
  unfold totalsLatch
  dsimp only
  split
  · exact setHolding_phases _
  split
  · exact setHolding_phases _
  · rfl

theorem journalStatus_phases (clear : Byte) : phaseItems (journalStatus clear s).state = phaseItems s := by
  unfold journalStatus
  split
  · rfl
  · dsimp only
    split <;> rfl

theorem bellSilence_phases (outputs : Byte) : phaseItems (bellSilence outputs s).state = phaseItems s :=
  foldl_phases (f := fun t o => t.setArbiter o s.silencedArbiter) (fun _ _ => rfl) _ s

/-- The commands of Evacuation Control and of the period close that can write their phases, and the end of a start. -/
def writesPhases : Instr → Bool
  | .periodClose .. | .closeCancel .. | .evacuate .. | .evacuationClear .. | .gatherTimerExpiry | .walkStep
  | .fireActive | .fireInactive | .chainLevelActive | .startComplete .. => true
  | _ => false

/-- Every other block leaves the items. -/
theorem owningBlock_phases {i : Instr} {act : State → Answer} (e : owningBlock i = some act)
    (hi : writesPhases i = false) : phaseItems (act s).state = phaseItems s := by
  cases i <;> cases e
  case periodClose => cases hi
  case closeCancel => cases hi
  case evacuate => cases hi
  case evacuationClear => cases hi
  case statusRead => exact statusRead_phases _
  case alertMask => exact alertMaskSet_phases _ _
  case tableWrite => exact tableWrite_phases _ _ _ _
  case tableRead => exact tableRead_phases _ _ _
  case timeSet => exact refused_phases ((takeExpiries_phases _).trans (offerEntry_phases ..))
  case workerSet => exact workerSet_phases _ _ _ _ _
  case workerFree => exact refused_phases (refused_phases (refused_phases (refused_phases rfl)))
  case presenceSet => exact presenceSet_phases _ _
  case badgeAdd => exact refused_phases (refused_phases (refused_phases (refused_phases (refused_phases rfl))))
  case badgeRemove => exact refused_phases (refused_phases rfl)
  case badgeFind => exact badgeFind_phases _
  case laneCommandNormal => exact laneMode_phases _ _
  case laneCommandLocked => exact laneMode_phases _ _
  case laneCommandUnlocked => exact laneMode_phases _ _
  case laneCommandPulse => exact lanePulse_phases _
  case laneCountersLatch => exact countersLatch_phases _
  case laneCountersRead => exact countersRead_phases _
  case laneCountersReset => exact countersReset_phases _
  case totalsLatch => exact totalsLatch_phases _
  case journalTrim => exact refused_phases (updateJournalConditions_phases ..)
  case journalStatus => exact journalStatus_phases _
  case bellRing => exact refused_phases (ringOutputs_phases ..)
  case bellSilence => exact bellSilence_phases _
  case describe => rfl
  case restart => rfl
  case timeRead => rfl
  case closeStatus => rfl
  case bellStatus => rfl
  case unknownRequest => rfl
  all_goals exact refused_phases rfl

end Blocks

/-! ## Events -/

section Events

variable {s : State}

theorem millisecond_phases : phaseItems (millisecond s) = phaseItems s := by
  unfold millisecond
  dsimp only
  split
  · split <;> rfl
  · rfl

/-- The gather timer counts down, and runs on (R126). -/
theorem tick_phases (fire chain : Bool) : phaseItems (tick fire chain s) = phaseItems s := by
  unfold tick
  split
  · simp [phaseItems, tickBlocks, Evac.tick, countDown]
  · split <;> rfl

theorem secondTick_phases : phaseItems (secondTick s) = phaseItems s := by
  unfold secondTick
  dsimp only
  split
  · split
    · exact (takeExpiries_phases _).trans (fireBells_phases ..)
    · rfl
  · rfl

theorem segmentEnd_phases (o : Nat) : phaseItems (segmentEnd o s) = phaseItems s := by
  unfold segmentEnd
  dsimp only
  split
  · split
    · split <;> rfl
    · rfl
  · rfl

theorem pollExpiry_phases (n : Nat) : phaseItems (pollExpiry n s) = phaseItems s := by
  unfold pollExpiry
  dsimp only
  split <;> rfl

theorem headEmpty_phases (n : Nat) : phaseItems (headEmpty n s) = phaseItems s := by
  unfold headEmpty
  split <;> simp

theorem replyMissed_phases (n : Nat) : phaseItems (replyMissed n s) = phaseItems s := by
  unfold replyMissed
  dsimp only
  split <;> simp

theorem replyBad_phases (n : Nat) : phaseItems (replyBad n s) = phaseItems s := by
  unfold replyBad
  dsimp only
  split <;> simp

theorem releaseExpiry_phases (n : Nat) : phaseItems (releaseExpiry n s) = phaseItems s := by
  unfold releaseExpiry
  dsimp only
  split <;> simp

theorem heldExpiry_phases (n : Nat) : phaseItems (heldExpiry n s) = phaseItems s := by
  unfold heldExpiry
  dsimp only
  split
  · split <;> simp
  · rfl

theorem chainInactive_phases : phaseItems (chainInactive s) = phaseItems s := by
  unfold chainInactive
  split <;> rfl

theorem downwardReceived_phases (l : List Byte) : phaseItems (downwardReceived l s) = phaseItems s := by
  obtain ⟨link, e⟩ := downwardReceived_form (s := s) l
  rw [e]
  rfl

theorem upwardReceived_phases (l : List Byte) : phaseItems (upwardReceived l s) = phaseItems s := by
  obtain ⟨link, e⟩ := upwardReceived_form (s := s) l
  rw [e]
  rfl

theorem downwardSend_phases : phaseItems (downwardSend s) = phaseItems s := by
  unfold downwardSend
  split
  · split <;> rfl
  · rfl

theorem transmit_phases : phaseItems (transmit s) = phaseItems s := by
  unfold transmit
  split
  · split
    · unfold transmitFrom
      split <;> split <;> rfl
    · rfl
  · rfl

theorem restartReplySent_phases : phaseItems (restartReplySent s) = phaseItems s := by
  unfold restartReplySent
  split <;> rfl

theorem powerUp_phases : phaseItems (powerUp s) = phaseItems s := by
  unfold powerUp
  split
  · rfl
  · split <;> rfl

theorem mainPowerLost_phases : phaseItems (mainPowerLost s) = phaseItems s := by
  unfold mainPowerLost
  split <;> rfl

theorem retainedLost_phases : phaseItems (retainedLost s) = phaseItems s := by
  unfold retainedLost
  split <;> rfl

/-- Every other event leaves the items. -/
theorem eventEffect_phases {i : Instr} (hi : writesPhases i = false) : phaseItems (eventEffect i s) = phaseItems s := by
  cases i
  case gatherTimerExpiry => cases hi
  case walkStep => cases hi
  case fireActive => cases hi
  case fireInactive => cases hi
  case chainLevelActive => cases hi
  case startComplete => cases hi
  case downwardFrameReceived => exact downwardReceived_phases _
  case upwardFrameReceived => exact upwardReceived_phases _
  case downwardForwardSend => exact downwardSend_phases
  case upwardTransmit => exact transmit_phases
  case restartReplySent => exact restartReplySent_phases
  case tick100ms => exact tick_phases _ _
  case secondTick => exact secondTick_phases
  case segmentEnd => exact segmentEnd_phases _
  case pollTimerExpiry => exact pollExpiry_phases _
  case headEmpty => exact headEmpty_phases _
  case headPunch => exact headEvent_phases _ _ _ fun u => punchTaken_phases u _ _ _
  case headDoorOpen => exact headEvent_phases _ _ _ fun u => doorOpened_phases u _
  case headDoorClosed => exact headEvent_phases _ _ _ fun u => doorClosed_phases u _
  case headTamperOn => exact headEvent_phases _ _ _ fun u => tamperTaken_phases u _ _
  case headTamperOff => exact headEvent_phases _ _ _ fun u => tamperTaken_phases u _ _
  case laneReplyBad => exact replyBad_phases _
  case laneReplyMissed => exact replyMissed_phases _
  case releaseTimerExpiry => exact releaseExpiry_phases _
  case heldTimerExpiry => exact heldExpiry_phases _
  case chainLevelInactive => exact chainInactive_phases
  case powerUp => exact powerUp_phases
  case mainPowerLost => exact mainPowerLost_phases
  case retainedDomainLost => exact retainedLost_phases
  all_goals rfl

end Events

end Sys2Proof.Proofs
end

section
/-! PROOF. The evacuation phase, its causes, the fire level and the close phase agree after every step (R126, R137,
R171, R173, R181, R185). -/

namespace Sys2Proof.Proofs

open Machine Laws

section Phases

variable {s t : State}

/-! ## An evacuation starts, goes on, or ends -/

theorem suspendedPhase_ne_walking (p : ClosePhase) : suspendedPhase p ≠ .walking := by cases p <;> decide

theorem suspendedPhase_gathering (p : ClosePhase) : suspendedPhase p = .gathering ↔ p = .gathering := by
  cases p <;> decide

/-- Once a cause is taken the part is evacuating, and a close does not walk (R137, R173, R175). -/
theorem takeCause_phasesAgree (c : Cause) (h : CausesAgree s) : PhasesAgree (takeCause c s) := by
  cases he : s.evac.evacuating with
  | true =>
    rw [takeCause_evacuating he]
    refine phasesAgree_iff.2 ⟨{ h with causes := fun hn => ?_ }, fun _ => he⟩
    exact absurd (he.symm.trans hn) (by decide)
  | false =>
    rw [takeCause_normal he, (startEvacuation_starts c s).form]
    exact ⟨(nomatch ·), fun _ => rfl, fun hw => absurd hw (suspendedPhase_ne_walking _), fun _ => rfl,
      h.gather.trans (suspendedPhase_gathering _).symm⟩

/-- The phase of a close once the evacuation has ended (R137). -/
def resumedPhase (p : ClosePhase) : ClosePhase := if p = .suspended then .walking else p

theorem resumedPhase_ne_suspended (p : ClosePhase) : resumedPhase p ≠ .suspended := by cases p <;> decide

theorem resumedPhase_gathering (p : ClosePhase) : resumedPhase p = .gathering ↔ p = .gathering := by
  cases p <;> decide

theorem takeChain_phasesAgree (h : PhasesAgree s) : PhasesAgree (takeChain s) := by
  unfold takeChain
  split
  · exact takeCause_phasesAgree .chain (phasesAgree_iff.1 h).1
  · exact h

/-- The clear leaves no cause, and a suspended close walks (R137, R181). -/
theorem clearEvacuation_phasesAgree (hf : ¬ s.evac.fireLevel = true) (h : PhasesAgree s) :
    PhasesAgree (clearEvacuation s) := by
  have hcleared : phaseItems (clearEvacuation s) = phaseItems (clearedState s) := by
    rw [clearEvacuation_eq, flagEvacuating_phases, offerEntry_phases, takeExpiries_phases]
  refine phasesAgree_same hcleared ?_
  rw [clearedState_form]
  exact ⟨fun _ => rfl, fun hl => absurd hl hf, fun _ => rfl, fun hs => absurd hs (resumedPhase_ne_suspended _),
    h.gather.trans (resumedPhase_gathering _).symm⟩

theorem accepted_phasesAgree {c : ReplyCode} (h : PhasesAgree s) : PhasesAgree (answer c s).state := h

/-- The clear is refused while the fire level is ACTIVE (R181). -/
theorem evacuationClear_phasesAgree (h : PhasesAgree s) : PhasesAgree (evacuationClear s).state := by
  unfold evacuationClear
  split
  · exact h
  · next hf =>
    split
    · exact h
    · exact accepted_phasesAgree (clearEvacuation_phasesAgree hf h)

/-! ## The close's requests and events (R127 to R131, R136) -/

theorem periodClose_phasesAgree (crews : Half) (h : PhasesAgree s) : PhasesAgree (periodClose crews s).state := by
  unfold periodClose
  split
  · exact h
  · split
    · exact { h with walking := (nomatch ·), suspended := (nomatch ·), gather := by simp [answer] }
    · next hp => exact { h with gather := by simp [answer, hp] }
    · exact h
    · exact h

theorem closeCancel_phasesAgree (h : PhasesAgree s) : PhasesAgree (closeCancel s).state := by
  unfold closeCancel
  split
  · exact { h with walking := (nomatch ·), suspended := (nomatch ·), gather := by simp [answer] }
  · exact h

/-- A close begins suspended exactly while evacuating, or ends at once (R129, R130). -/
theorem gatherExpiry_phasesAgree (h : PhasesAgree s) : PhasesAgree (gatherExpiry s) := by
  unfold gatherExpiry
  split
  · split
    · refine phasesAgree_same (offerEntry_phases ..) ⟨h.causes, h.fire, ?_, ?_, ?_⟩ <;>
        cases he : s.evac.evacuating <;> simp
    · refine phasesAgree_same (flagCloseDone_phases _) ?_
      exact ⟨h.causes, h.fire, (nomatch ·), (nomatch ·), by simp⟩
  · exact h

/-- The walk goes on, or ends in IDLE (R131, R136). -/
theorem walkStep_phasesAgree (h : PhasesAgree s) : PhasesAgree (walkStep s) := by
  unfold walkStep
  dsimp only
  split
  · next hw =>
    obtain ⟨-, hphase, -⟩ := hw
    have hreach := phasesAgree_same (reachRecord_phases s s.close.walkIndex (s.worker s.close.walkIndex).presence) h
    split
    · refine phasesAgree_same ((flagCloseDone_phases _).trans (offerEntry_phases ..)) ?_
      refine ⟨hreach.causes, hreach.fire, (nomatch ·), (nomatch ·), hreach.gather.trans ?_⟩
      simp [(reachRecord_pays s.close.walkIndex (s.worker s.close.walkIndex).presence s).closePhase, hphase]
    · exact { hreach with }
  · exact h

/-! ## The levels (R173) -/

theorem fireActive_phasesAgree (h : PhasesAgree s) : PhasesAgree (fireActive s) := by
  unfold fireActive
  split
  · exact takeCause_phasesAgree .fire { (phasesAgree_iff.1 h).1 with }
  · exact h

theorem fireInactive_phasesAgree (h : PhasesAgree s) : PhasesAgree (fireInactive s) := by
  unfold fireInactive
  split
  · exact { h with fire := (nomatch ·) }
  · exact h

theorem chainActive_phasesAgree (h : PhasesAgree s) : PhasesAgree (chainActive s) := by
  unfold chainActive
  split
  · exact takeChain_phasesAgree { h with }
  · exact h

/-! ## Starts (R141, R185, R205) -/

theorem restoredPhase_walking {e : Bool} {p : ClosePhase} (h : restoredPhase e p = .walking) : e = false := by
  cases e
  · rfl
  · cases p <;> cases h

theorem restoredPhase_suspended {e : Bool} {p : ClosePhase} (h : restoredPhase e p = .suspended) : e = true := by
  cases e
  · cases p <;> cases h
  · rfl

theorem restoredPhase_ne_gathering (e : Bool) (p : ClosePhase) : restoredPhase e p ≠ .gathering := by
  cases e <;> cases p <;> decide

/-- The close record is restored to go with the retained evacuation phase, whatever it was (R141). -/
theorem startBlocks_causesAgree (k : StartKind) (strap : BitVec 5) (h : PhasesAgree s) :
    CausesAgree (startBlocks k strap s) :=
  ⟨h.causes, restoredPhase_walking, restoredPhase_suspended,
    (nomatch ·), fun hg => absurd hg (restoredPhase_ne_gathering _ _)⟩

/-- The first levels: an ACTIVE fire level is a cause, so the part then evacuates (R173, R185). -/
theorem restoreEvacuation_phasesAgree (fire chain : Bool) (h : CausesAgree s) :
    PhasesAgree (restoreEvacuation fire chain s) := by
  unfold restoreEvacuation
  extract_lets s1 s2 s3
  have h1 : CausesAgree s1 := { h with causes := fun he => by simp [s1, Evac.restored, h.causes he, Causes.empty] }
  have hsame : phaseItems s2 = phaseItems s1 := by
    unfold s2
    split
    · rw [flagEvacuating_phases, soundTone_phases]
    · rfl
  have h2 : CausesAgree s2 := causesAgree_same hsame h1
  have h3 : PhasesAgree s3 := by
    unfold s3
    split
    · exact takeCause_phasesAgree .fire h2
    · next hf => exact phasesAgree_same hsame (phasesAgree_iff.2 ⟨h1, fun hl => absurd hl hf⟩)
  exact takeChain_phasesAgree h3

/-- A cold start begins with every item as after reset. -/
theorem coldDomain_phasesAgree (s : State) : PhasesAgree (coldDomain s) :=
  ⟨fun _ => rfl, (nomatch ·), (nomatch ·), (nomatch ·), (nomatch ·), (nomatch ·)⟩

theorem startComplete_phasesAgree (fire chain : Bool) (strap : BitVec 5) (h : PhasesAgree s) :
    PhasesAgree (startComplete fire chain strap s) := by
  unfold startComplete
  split
  · exact h
  next k _ =>
  split
  · have h0 : PhasesAgree (if k = .cold then coldDomain s else s) := by
      split
      · exact coldDomain_phasesAgree s
      · exact h
    exact phasesAgree_same (flagJournal_phases ..) (restoreEvacuation_phasesAgree fire chain
      (causesAgree_same (takeExpiries_phases _) (startBlocks_causesAgree k strap h0)))
  · exact h

/-! ## Every step -/

theorem owningBlock_phasesAgree {i : Instr} {act : State → Answer} (e : owningBlock i = some act) (h : PhasesAgree s) :
    PhasesAgree (act s).state := by
  cases hi : writesPhases i with
  | false => exact phasesAgree_same (owningBlock_phases e hi) h
  | true =>
    cases i <;> cases hi <;> cases e
    case true.periodClose => exact periodClose_phasesAgree _ h
    case true.closeCancel => exact closeCancel_phasesAgree h
    case true.evacuate => exact takeCause_phasesAgree .command (phasesAgree_iff.1 h).1
    case true.evacuationClear => exact evacuationClear_phasesAgree h

theorem eventEffect_phasesAgree (i : Instr) (h : PhasesAgree s) : PhasesAgree (eventEffect i s) := by
  cases hi : writesPhases i with
  | false => exact phasesAgree_same (eventEffect_phases hi) h
  | true =>
    cases i <;> cases hi
    case true.gatherTimerExpiry => exact gatherExpiry_phasesAgree h
    case true.walkStep => exact walkStep_phasesAgree h
    case true.fireActive => exact fireActive_phasesAgree h
    case true.fireInactive => exact fireInactive_phasesAgree h
    case true.chainLevelActive => exact chainActive_phasesAgree h
    case true.startComplete => exact startComplete_phasesAgree _ _ _ h
    all_goals exact h

/-- Every command leaves phases that agree. -/
theorem effect_phasesAgree (i : Instr) (h : PhasesAgree s) : PhasesAgree (effect i s) := by
  unfold effect
  split
  · next act e => exact takeRequest_keeps (fun _ _ hu => { hu with }) i (fun _ => owningBlock_phasesAgree e) h
  · exact eventEffect_phasesAgree i h

end Phases

/-- Settles O59: the commands that write the phases one by one, and every other leaves all the items that must agree. -/
theorem stepsKeepThePhases : Obligations.StepsKeepThePhases := by
  unfold Obligations.StepsKeepThePhases
  intro s t
  exact step_keeps (P := PhasesAgree) (fun _ _ h => { h with }) (fun _ => phasesAgree_same millisecond_phases)
    (fun i _ => effect_phasesAgree i)

end Sys2Proof.Proofs
end

section
/-! PROOF. PERIOD CLOSE, CLOSE CANCEL, and the expiry of the gather timer (R126 to R130). -/

namespace Sys2Proof.Proofs

open Machine Laws

section Requests

variable {s u : State} {tag : Byte} {c : ReplyCode} {crews : Half}

/-! ## The requests (R127, R128) -/

/-- PERIOD CLOSE is answered as its block answers. -/
theorem exec_periodClose (h : Ready (.periodClose tag crews) s) (hact : periodClose crews s.taken = answer c u) :
    exec (.periodClose tag crews) s = .next (u.reply 72#8 tag c []) :=
  congrArg Host.Outcome.next (request_ready h rfl hact)

/-- CLOSE CANCEL is answered as its block answers. -/
theorem exec_closeCancel (h : Ready (.closeCancel tag) s) (hact : closeCancel s.taken = answer c u) :
    exec (.closeCancel tag) s = .next (u.reply 73#8 tag c []) :=
  congrArg Host.Outcome.next (request_ready h rfl hact)

theorem periodClose_empty (h : crews = 0#16) : periodClose crews s = answer .badValue s := if_pos h

theorem periodClose_begins (h : crews ≠ 0#16) (hp : s.close.phase = .idle) : periodClose crews s =
    answer .ok
      { s with close := { s.close with phase := .gathering, crews := crews, gatherTimer := some s.gatherTicks } } := by
  simp only [periodClose, if_neg h, hp]

theorem periodClose_widens (h : crews ≠ 0#16) (hp : s.close.phase = .gathering) : periodClose crews s =
    answer .ok
      { s with close := { s.close with crews := s.close.crews ||| crews, gatherTimer := some s.gatherTicks } } := by
  simp only [periodClose, if_neg h, hp]

theorem periodClose_busy (h : crews ≠ 0#16) (hp : s.close.phase = .walking ∨ s.close.phase = .suspended) :
    periodClose crews s = answer .busy s := by
  rcases hp with hp | hp <;> simp only [periodClose, if_neg h, hp]

theorem closeCancel_gathering (h : s.close.phase = .gathering) : closeCancel s =
    answer .ok { s with close := { s.close with phase := .idle, gatherTimer := none } } := by
  simp only [closeCancel, h]

theorem closeCancel_refused (h : s.close.phase ≠ .gathering) : closeCancel s = answer .notPermitted s := by
  unfold closeCancel
  split
  · next hg => exact absurd hg h
  · rfl

/-! ## Gather expiry (R129, R130) -/

/-- What expires is the timer of a gathering close. -/
theorem exec_gatherExpiry (hr : s.running = true) (hp : s.close.phase = .gathering)
    (ht : s.close.gatherTimer = some 0) :
    exec .gatherTimerExpiry s = .next (if s.clock.valid then beginClose s else endUnset s) :=
  congrArg Host.Outcome.next (if_pos ⟨hr, hp, ht⟩)

/-- The CLOSE_DONE change flag sets, and beyond it the upward queue alone changes (R136). -/
theorem flagCloseDone_form (s : State) : flagCloseDone s =
    { s with
      changes := { s.changes with closeDone := true }
      link := { s.link with upQueue := (flagCloseDone s).link.upQueue } } := by
  obtain ⟨q, h, -⟩ := flagCloseDone_spec s
  rw [h]

/-- A close that ends while the clock is UNSET offers the alert of CLOCK_UNSET, number 2 (R130, R195). -/
theorem endUnset_alerts (s : State) : Alerts s (endUnset s) (s.alertOf (!s.changes.closeDone) 7 255 2) :=
  alerts_congr
    (flagCloseDone_alerts
      { s with close := { s.close with phase := .idle, lastResult := .clockUnset, gatherTimer := none } })
    rfl rfl

end Requests

/-- Settles O46: the block's answer by the set and the phase, and the expiry by the clock's validity. -/
theorem closeGathersAndBegins : Obligations.CloseGathersAndBegins := by
  unfold Obligations.CloseGathersAndBegins
  refine ⟨fun tag crews s h => ⟨fun hc => exec_periodClose h (periodClose_empty hc), fun hc =>
    ⟨fun hp => exec_periodClose h (periodClose_begins hc hp), fun hp => exec_periodClose h (periodClose_widens hc hp),
      fun hp => exec_periodClose h (periodClose_busy hc hp)⟩⟩, fun s hr hp ht => ⟨fun hv => ?_, fun hv => ?_⟩⟩
  · rw [exec_gatherExpiry hr hp ht, if_pos hv]
    rfl
  · have hexec := exec_gatherExpiry hr hp ht
    rw [if_neg (by simp [hv])] at hexec
    exact ⟨endUnset s, hexec, flagCloseDone_form _, endUnset_alerts s⟩

/-- Settles O47: the block's answer in GATHERING and in the other phases. -/
theorem closeCancelActs : Obligations.CloseCancelActs := by
  unfold Obligations.CloseCancelActs
  exact fun tag s h => ⟨fun hp => exec_closeCancel h (closeCancel_gathering hp),
    fun hp => exec_closeCancel h (closeCancel_refused hp)⟩

end Sys2Proof.Proofs
end

section
/-! PROOF. The walk of a close, how it decides a record, and the on-demand close (R131 to R136, R139). -/

namespace Sys2Proof.Proofs

open Machine Laws

/-! ## A record close (R133) -/

/-- The record that a close leaves. -/
def closedRecord (c : CloseState) (w : Worker) : Worker :=
  { w with closed := w.live, closedGen := c.gen, closedAt := c.tClose, live := Bank.zero, closeMark := c.gen }

section Reach

variable {s : State} {i : Nat} {presence : Presence}

/-- No attendance from before T_close: the record is closed as it stands. -/
theorem recordClose_whole
    (h : (s.worker i).attendance = none ∨ ∃ a, (s.worker i).attendance = some a ∧ s.close.tClose ≤ a.inTime) :
    recordClose i presence s =
      { s.setWorker i (closedRecord s.close (s.worker i)) with
        close := { s.close with closed := s.close.closed + 1 } } := by
  unfold recordClose
  rcases h with ha | ⟨a, ha, hle⟩
  · simp [ha, closedRecord]
  · simp [ha, Nat.not_lt.2 hle, closedRecord]

theorem makePairing_worker {a : Attendance} (ha : (s.worker i).attendance = some a) (kind : PairKind) (raw : Nat) :
    (makePairing i kind raw presence s).worker i =
      (s.worker i).paired a kind raw (s.weekIndex a.dayKey) (s.computePay (s.worker i) a kind raw) := by
  rw [makePairing_eq ha, offerEntry_worker, setWorker_same]

/-- An attendance from before T_close is split there, and the record is closed as the split leaves it. -/
theorem recordClose_split {a : Attendance} (ha : (s.worker i).attendance = some a) (h : a.inTime < s.close.tClose) :
    recordClose i presence s =
      { (makePairing i .split s.close.tClose presence s).setWorker i
          (closedRecord s.close ((makePairing i .split s.close.tClose presence s).worker i)) with
        close := { s.close with closed := s.close.closed + 1, split := s.close.split + 1 } } := by
  have hclose : (makePairing i .split s.close.tClose presence s).close = s.close := by
    rw [makePairing_eq ha, offerEntry_close, setWorker_close]
  unfold recordClose
  simp [ha, h, hclose, closedRecord]

/-- Either way: which record is written, and what the counts of the close become. -/
theorem recordClose_form (i : Nat) (presence : Presence) (s : State) :
    ∃ (v : State) (n : Nat), recordClose i presence s =
    { v.setWorker i (closedRecord s.close (v.worker i)) with
      close := { s.close with closed := s.close.closed + 1, split := n } } := by
  by_cases h : ∃ a, (s.worker i).attendance = some a ∧ a.inTime < s.close.tClose
  · obtain ⟨a, ha, hlt⟩ := h
    exact ⟨_, _, recordClose_split ha hlt⟩
  · refine ⟨s, s.close.split, recordClose_whole ?_⟩
    cases ha : (s.worker i).attendance with
    | none => exact .inl rfl
    | some a => exact .inr ⟨a, rfl, not_lt.1 fun hlt => h ⟨a, ha, hlt⟩⟩

/-- What a close leaves of the record and of its own counts in either case (R133). -/
theorem recordClose_closed (i : Nat) (presence : Presence) (s : State) :
    ((recordClose i presence s).worker i).closeMark = s.close.gen
      ∧ ((recordClose i presence s).worker i).closedGen = s.close.gen
      ∧ ((recordClose i presence s).worker i).closedAt = s.close.tClose
      ∧ ((recordClose i presence s).worker i).live = Bank.zero
      ∧ (recordClose i presence s).close.closed = s.close.closed + 1
      ∧ (recordClose i presence s).close.skipped = s.close.skipped := by
  obtain ⟨v, n, e⟩ := recordClose_form i presence s
  have hread : (recordClose i presence s).worker i = closedRecord s.close (v.worker i) := by
    rw [e]
    exact setWorker_same ..
  rw [hread, e]
  exact ⟨rfl, rfl, rfl, rfl, rfl, rfl⟩

theorem recordClose_whole_worker
    (h : (s.worker i).attendance = none ∨ ∃ a, (s.worker i).attendance = some a ∧ s.close.tClose ≤ a.inTime) :
    (recordClose i presence s).worker i = closedRecord s.close (s.worker i) := by
  rw [recordClose_whole h]
  exact setWorker_same ..

/-- The record after the split at T_close and the close (R119, R133). -/
theorem recordClose_split_worker {a : Attendance} (ha : (s.worker i).attendance = some a)
    (h : a.inTime < s.close.tClose) :
    (recordClose i presence s).worker i =
      closedRecord s.close
        ((s.worker i).paired a .split s.close.tClose (s.weekIndex a.dayKey)
          (s.computePay (s.worker i) a .split s.close.tClose)) := by
  rw [recordClose_split ha h, makePairing_worker ha]
  exact setWorker_same ..

/-- The split's PAYLINE takes one entry number (R120, R143). -/
theorem recordClose_split_next {a : Attendance} (ha : (s.worker i).attendance = some a)
    (h : a.inTime < s.close.tClose) : (recordClose i presence s).journal.next = s.journal.next + 1 := by
  rw [recordClose_split ha h, makePairing_eq ha, setWorker_journal, offerEntry_journal, appended_next,
    setWorker_journal]

/-! ## The lines of R132's table -/

theorem reachRecord_passes (h : (s.worker i).status = .free ∨ (s.worker i).closeMark = s.close.gen) :
    reachRecord i presence s = s := by
  unfold reachRecord
  rcases h with h | h <;> simp [h]

section Decided

variable (hf : (s.worker i).status ≠ .free) (hm : (s.worker i).closeMark ≠ s.close.gen)

include hf hm

theorem reachRecord_marks (hc : s.close.crews.getLsbD (s.worker i).crew = false) :
    reachRecord i presence s = s.setWorker i { s.worker i with closeMark := s.close.gen } := by
  simp [reachRecord, hf, hm, hc]

theorem reachRecord_skips (hc : s.close.crews.getLsbD (s.worker i).crew = true) (hp : (s.worker i).payhold = true) :
    reachRecord i presence s =
      { s.setWorker i { s.worker i with closeMark := s.close.gen } with
        close := { s.close with skipped := s.close.skipped + 1 } } := by
  simp [reachRecord, hf, hm, hc, hp]

theorem reachRecord_closes (hc : s.close.crews.getLsbD (s.worker i).crew = true)
    (hp : (s.worker i).payhold = false) : reachRecord i presence s = recordClose i presence s := by
  simp [reachRecord, hf, hm, hc, hp]

end Decided

end Reach

/-! ## The walk (R131, R136) -/

/-- The state at the end of the walk, its DONE entry offered: `u` is the state once the last record has been reached. -/
def walkEnded (u : State) : State :=
  offerEntry (.closeDone u.close.gen u.close.crews u.close.tClose u.close.closed u.close.skipped u.close.split)
    { u with close := { u.close with walkIndex := 4096, phase := .idle, lastResult := .complete } }

section Walk

variable {s : State}

theorem exec_walkStep_goesOn {i : Nat} (hr : s.running = true) (hp : s.close.phase = .walking) (hi : i < 4095)
    (hw : s.close.walkIndex = i) :
    exec .walkStep s =
      .next { reachRecord i (s.worker i).presence s with
        close := { (reachRecord i (s.worker i).presence s).close with walkIndex := i + 1 } } := by
  subst hw
  have hstep : s.running ∧ s.close.phase = .walking ∧ s.close.walkIndex < 4096 := ⟨hr, hp, by omega⟩
  have hlast : ¬ s.close.walkIndex + 1 = 4096 := by omega
  exact congrArg Host.Outcome.next ((if_pos hstep).trans (if_neg hlast))

theorem exec_walkStep_ends (hr : s.running = true) (hp : s.close.phase = .walking) (hw : s.close.walkIndex = 4095) :
    exec .walkStep s = .next (flagCloseDone (walkEnded (reachRecord 4095 (s.worker 4095).presence s))) := by
  have hstep : s.running ∧ s.close.phase = .walking ∧ s.close.walkIndex < 4096 := ⟨hr, hp, by omega⟩
  have hwalk : walkStep s = _ := (if_pos hstep).trans (if_pos (by rw [hw]))
  rw [hw] at hwalk
  exact congrArg Host.Outcome.next hwalk

/-- The frame of the walk's end, by the change flag as the step finds it (R136, R195). -/
theorem walkEnded_alerts (i : Nat) (presence : Presence) (s : State) :
    Alerts (walkEnded (reachRecord i presence s)) (flagCloseDone (walkEnded (reachRecord i presence s)))
      ((walkEnded (reachRecord i presence s)).alertOf (!s.changes.closeDone) 7 255 1) := by
  have hflag : (walkEnded (reachRecord i presence s)).changes.closeDone = s.changes.closeDone := by
    rw [walkEnded, offerEntry_changes]
    exact (reachRecord_keepsFlags i presence s).closeDone
  have hresult : (walkEnded (reachRecord i presence s)).close.lastResult.code = 1 := by
    rw [walkEnded, offerEntry_close]
    rfl
  have halerts := flagCloseDone_alerts (walkEnded (reachRecord i presence s))
  rwa [hflag, hresult] at halerts

end Walk

/-- Settles O48: the walk by its index, the record by the lines of R132's table, the pairing by the phase. -/
theorem closeReachesRecords : Obligations.CloseReachesRecords := by
  unfold Obligations.CloseReachesRecords
  refine ⟨fun s hr hp => ⟨fun i hi hw => ⟨_, rfl, exec_walkStep_goesOn hr hp hi hw⟩, fun hw => ?_⟩,
    fun i presence s w hw => ?_, fun i kind raw presence s => ⟨fun hp => ?_, fun hp => ?_⟩⟩
  · have halerts := walkEnded_alerts 4095 (s.worker 4095).presence s
    have hexec := exec_walkStep_ends hr hp hw
    generalize reachRecord 4095 (s.worker 4095).presence s = u at halerts hexec ⊢
    refine ⟨u, walkEnded u, _, rfl, hexec, rfl, flagCloseDone_form _, halerts, ?_, ?_, ?_, ?_⟩ <;>
      rw [flagCloseDone_form]
    · exact offerEntry_close ..
    · exact offerEntry_workers ..
    · exact congrArg Journal.next (offerEntry_journal ..) |>.trans (appended_next ..)
  · subst hw
    refine ⟨reachRecord_passes, fun hf hm => ⟨reachRecord_marks hf hm, fun hc hp => ?_, fun hc hp => ?_⟩⟩
    · exact ⟨_, reachRecord_skips hf hm hc hp, rfl, setWorker_same .., fun j hj => setWorker_ne _ _ _ _ hj⟩
    · obtain ⟨hmark, hgen, hat, hlive, hclosed, hskipped⟩ := recordClose_closed i presence s
      have hsettles := recordClose_settles hf presence
      have hne {j : Nat} (hj : j ≠ i) := reachRecord_worker_ne hj presence s
      rw [reachRecord_closes hf hm hc hp] at hne ⊢
      refine ⟨_, rfl, fun j hj => hne hj, hmark, hgen, hat, hlive, hsettles.presence i, hsettles.insideCount, hclosed,
        hskipped, fun h => ?_, fun a ha hlt => ?_⟩
      · rw [recordClose_whole_worker h, recordClose_whole h]
        exact ⟨rfl, rfl, rfl, rfl⟩
      · rw [recordClose_split_worker ha hlt, recordClose_split_next ha hlt]
        exact ⟨rfl, ⟨_, rfl, rfl, rfl, rfl, rfl, rfl⟩, by rw [recordClose_split ha hlt], rfl⟩
  · rw [callPairing, if_pos hp]
  · rw [callPairing, if_neg hp]

end Sys2Proof.Proofs
end

section
/-! SUPPORT. What an update of the journal's conditions and an offered entry do to the change flags and the upward queue, in
the words of the claims (R143, R147 to R149, R151, R155). -/

namespace Sys2Proof.Proofs

open Machine Laws

/-! ## The journal's conditions -/

/-- The order of the frames offered does not matter to the claim. -/
theorem alerts_perm {s t : State} {k l : List UpFrame} (h : Alerts s t k) (hp : k.Perm l) : Alerts s t l := by
  obtain ⟨m, hm, e⟩ := h
  exact ⟨m, hm.trans hp, e⟩

/-- The ALERT frames of the journal's two conditions when they turn from `high` and `full` to `high'` and `full'`: one for
each change flag of `s` that goes from clear to set, as the alert mask and the enable of `s` allow (R151, R195). -/
def journalFrames (s : State) (high full high' full' : Bool) : List UpFrame :=
  s.alertOf (!s.changes.journalHigh && (high != high')) 4 255 (if high' then 1 else 0)
    ++ s.alertOf (!s.changes.journalFull && (full != full')) 5 255 (if full' then 1 else 0)

/-- Conditions that stand have no frames. -/
theorem journalFrames_same (s : State) (high full : Bool) : journalFrames s high full high full = [] := by
  simp only [journalFrames, bne_self_eq_false, Bool.and_false, alertOf_false, List.append_nil]

/-- A change of JOURNAL_HIGH alone has one frame at most. -/
theorem journalFrames_high (s : State) (high full high' : Bool) : journalFrames s high full high' full =
    s.alertOf (!s.changes.journalHigh && (high != high')) 4 255 (if high' then 1 else 0) := by
  simp only [journalFrames, bne_self_eq_false, Bool.and_false, alertOf_false, List.append_nil]

section Conditions

variable (before s : State)

/-- The update of the conditions sets their change flags and sends frames; it leaves all else. -/
theorem updateJournalConditions_form : ∃ q, updateJournalConditions before s =
    { s with
      changes := { s.changes with
        journalHigh := s.changes.journalHigh || (before.journalHigh != s.journalHigh)
        journalFull := s.changes.journalFull || (before.journalFull != s.journalFull) }
      link := { s.link with upQueue := s.link.upQueue ++ q } } := by
  obtain ⟨q, h, -⟩ := updateJournalConditions_spec before s
  exact ⟨q, h⟩

/-- The frames that the update offers. -/
theorem updateJournalConditions_alerts :
    Alerts s (updateJournalConditions before s)
      (journalFrames s before.journalHigh before.journalFull s.journalHigh s.journalFull) := by
  have h := flagJournal_alerts (before.journalHigh ^^ s.journalHigh) (before.journalFull ^^ s.journalFull) s
  rw [Bool.and_comm _ (!s.changes.journalHigh), Bool.and_comm _ (!s.changes.journalFull)] at h
  exact h

end Conditions

/-! ## Storing an entry -/

section Offer

variable (e : Entry) (entries : List Entry) (body : EntryBody) (s : State)

/-- The frames that go with a stored entry: the live notice, if live notices are on, and the alerts (R151, R155). -/
def storedFrames (high' full' : Bool) : List UpFrame :=
  (if s.part.liveNotices then [noticeFrame e] else []) ++ journalFrames s s.journalHigh s.journalFull high' full'

/-- Storing offers the notice and the alerts, in whichever order (log entry 6). -/
theorem storeEntry_alerts : Alerts s (storeEntry e entries s)
    (storedFrames e s (decide (s.part.highMark ≤ entries.length)) (decide (entries.length = Config.journalCap))) := by
  have alerted : ∀ {u : State}, Sends { s with journal := { s.journal with entries := entries } } u →
      Alerts u (updateJournalConditions s u)
        (journalFrames s s.journalHigh s.journalFull (decide (s.part.highMark ≤ entries.length))
          (decide (entries.length = Config.journalCap))) := by
    rintro u ⟨q, rfl, -⟩
    exact updateJournalConditions_alerts s _
  have noticed : ∀ u : State, Alerts u (offerFrame (noticeFrame e) u) [noticeFrame e] := offerFrame_alerts _
  have sent := alerted (offerFrame_sends (noticeFrame e) _)
  have quiet := alerted (Sends.refl _)
  unfold storeEntry storedFrames
  dsimp only
  split
  · split
    · exact alerts_congr (alerts_trans (noticed _) sent) rfl rfl
    · exact alerts_congr (alerts_perm (alerts_trans quiet (noticed _)) List.perm_append_comm) rfl rfl
  · exact alerts_congr quiet rfl rfl

variable {body s}

/-- Below 2048 entries the entry is stored as the newest (R147). -/
theorem offerEntry_below (h : s.journal.entries.length < 2048) : offerEntry body s =
    storeEntry (offered body s) (s.journal.entries ++ [offered body s])
      { s with journal := { s.journal with next := s.journal.next + 1 } } := if_pos h

/-- At a full journal under WRAP it is stored and the oldest entry discarded and counted (R148). -/
theorem offerEntry_wrapped (h : 2048 ≤ s.journal.entries.length) (hw : s.part.wrap = true) : offerEntry body s =
    storeEntry (offered body s) (s.journal.entries.tail ++ [offered body s])
      { s with journal :=
          { s.journal with next := s.journal.next + 1, overflow := min (s.journal.overflow + 1) 65535 } } :=
  (if_neg (not_lt.2 h)).trans (if_pos hw)

/-- At a full journal under HOLD it is lost and counted (R149). -/
theorem offerEntry_held (h : 2048 ≤ s.journal.entries.length) (hw : s.part.wrap = false) : offerEntry body s =
    { s with journal :=
        { s.journal with next := s.journal.next + 1, overflow := min (s.journal.overflow + 1) 65535 } } :=
  (if_neg (not_lt.2 h)).trans (if_neg (by rw [hw]; exact Bool.false_ne_true))

theorem appended_below (h : s.journal.entries.length < 2048) : appended body s =
    ⟨s.journal.entries ++ [offered body s], s.journal.next + 1, s.journal.overflow⟩ := if_pos h

theorem appended_wrapped (h : 2048 ≤ s.journal.entries.length) (hw : s.part.wrap = true) : appended body s =
    ⟨s.journal.entries.tail ++ [offered body s], s.journal.next + 1, min (s.journal.overflow + 1) 65535⟩ :=
  (if_neg (not_lt.2 h)).trans (if_pos hw)

/-- An entry that is not lost is stored among some entries, in a state whose journal still holds those of `s`. -/
theorem offerEntry_stored (h : s.journal.entries.length < 2048 ∨ s.part.wrap = true) : ∃ next overflow,
    offerEntry body s =
      storeEntry (offered body s) (appended body s).entries
        { s with journal := ⟨s.journal.entries, next, overflow⟩ } := by
  rcases Nat.lt_or_ge s.journal.entries.length 2048 with hl | hl
  · exact ⟨_, _, by rw [appended_below hl]; exact offerEntry_below hl⟩
  · have hw := h.resolve_left (not_lt.2 hl)
    exact ⟨_, _, by rw [appended_wrapped hl hw]; exact offerEntry_wrapped hl hw⟩

theorem offerEntry_high :
    (offerEntry body s).journalHigh = decide (s.part.highMark ≤ (appended body s).entries.length) := by
  rw [State.journalHigh, offerEntry_journal, offerEntry_part]

theorem offerEntry_full :
    (offerEntry body s).journalFull = decide ((appended body s).entries.length = Config.journalCap) := by
  rw [State.journalFull, offerEntry_journal]

/-- The frames that a stored entry offers (R151, R155). -/
theorem offerEntry_alerts (h : s.journal.entries.length < 2048 ∨ s.part.wrap = true) :
    Alerts s (offerEntry body s)
      (storedFrames (offered body s) s (offerEntry body s).journalHigh (offerEntry body s).journalFull) := by
  obtain ⟨next, overflow, hstored⟩ := offerEntry_stored (body := body) h
  rw [offerEntry_high, offerEntry_full, hstored]
  exact alerts_congr (storeEntry_alerts _ _ { s with journal := ⟨s.journal.entries, next, overflow⟩ }) rfl rfl

/-- With neither condition changed, the notice alone is offered, and only with live notices on. -/
theorem storedFrames_unchanged {high full : Bool} (hh : s.journalHigh = high) (hf : s.journalFull = full) :
    storedFrames e s high full = if s.part.liveNotices then [noticeFrame e] else [] := by
  rw [storedFrames, ← hh, ← hf, journalFrames_same, List.append_nil]

/-- The link of an offer that leaves the upward queue alone. -/
theorem offerEntry_link_of_queue (h : (offerEntry body s).link.upQueue = s.link.upQueue) :
    (offerEntry body s).link = s.link := by
  obtain ⟨c, q, hform⟩ := offerEntry_form body s
  rw [hform] at h ⊢
  exact congrArg (fun l => { s.link with upQueue := l }) h

/-- With live notices off and no condition changing nothing is sent, whether the entry is stored or lost. -/
theorem offerEntry_silent (hl : s.part.liveNotices = false) (hh : s.journalHigh = (offerEntry body s).journalHigh)
    (hf : s.journalFull = (offerEntry body s).journalFull) : (offerEntry body s).link = s.link := by
  by_cases h : s.journal.entries.length < 2048 ∨ s.part.wrap = true
  · have halerts := offerEntry_alerts (body := body) h
    rw [storedFrames_unchanged _ hh hf, hl] at halerts
    exact offerEntry_link_of_queue (alerts_queue_nil halerts)
  · obtain ⟨hfull, hw⟩ := not_or.1 h
    rw [offerEntry_held (not_lt.1 hfull) (Bool.eq_false_of_not_eq_true hw)]

/-- With live notices on and no condition changing, the notice alone is offered. -/
theorem offerEntry_notice (hl : s.part.liveNotices = true)
    (h : s.journal.entries.length < 2048 ∨ s.part.wrap = true) (hh : s.journalHigh = (offerEntry body s).journalHigh)
    (hf : s.journalFull = (offerEntry body s).journalFull) :
    Alerts s (offerEntry body s) [noticeFrame (offered body s)] := by
  have halerts := offerEntry_alerts (body := body) h
  rwa [storedFrames_unchanged _ hh hf, hl] at halerts

end Offer

end Sys2Proof.Proofs
end

section
/-! PROOF. An entry offered to the journal (R143, R147 to R149, R151, R155). -/

namespace Sys2Proof.Proofs

open Machine Laws

/-- Settles O30: the journal by `appended`, the flags by `offerEntry_changes`, the frames by `offerEntry_alerts`. -/
theorem entryIsOffered : Obligations.EntryIsOffered := by
  unfold Obligations.EntryIsOffered
  refine ⟨fun body s => ⟨offerEntry body s, rfl, ?_, ?_, fun h => ?_, fun h hw => ?_, fun h hw => ?_,
    offerEntry_changes body s, fun h => ?_, offerEntry_silent⟩, fun body s hl h hh hf => ?_⟩
  · obtain ⟨c, q, hform⟩ := offerEntry_form body s
    rw [hform]
  · rw [offerEntry_journal, appended_next]
  · rw [offerEntry_journal, appended_below h]
    exact ⟨rfl, rfl⟩
  · rw [offerEntry_journal, appended_wrapped h hw]
    exact ⟨rfl, rfl⟩
  · rw [offerEntry_held h hw]
    exact ⟨rfl, rfl, rfl, rfl⟩
  · rw [List.append_assoc]
    exact offerEntry_alerts h
  · have hqueue := alerts_queue_one (offerEntry_notice hl h hh hf)
    exact ⟨fun hq => hqueue.trans (if_pos hq), fun hq => hqueue.trans (if_neg (not_lt.2 hq))⟩

end Sys2Proof.Proofs
end

section
/-! PROOF. A PART write (R150, R151, R199, R201): what it reads, what it stores, and its alert. -/

namespace Sys2Proof.Proofs

open Machine Laws

/-! ## The PART record and its bytes (R150, R201) -/

section Record

variable {p h1 h2 lv g d n1 n2 e1 e2 ws ev al po ex : Byte}

/-- The PART record that 15 bytes hold, its clampable fields brought to their limits (R201). -/
def partOf (p h1 h2 lv g d n1 n2 e1 e2 ws ev al po ex : Byte) : PartRecord :=
  { wrap := decide (p.toNat = 1), highMark := nat16 h1 h2, liveNotices := decide (lv.toNat = 1)
    gatherWindow := clampTo 1 10 g.toNat, duplicateWindow := clampTo 1 10 d.toNat
    nightStart := nat16 n1 n2, nightEnd := nat16 e1 e2, weekStart := ws.toNat, evacPattern := ev.toNat
    alertEnable := decide (al.toNat = 1), pollInterval := clampTo 20 200 po.toNat
    extendedLoss := decide (ex.toNat = 1) }

/-- A PART record whose refusable bytes lie in their sets, and whether one of its clampable fields was brought to a
limit. -/
theorem readPart_inside (hp : p.toNat ≤ 1) (hlv : lv.toNat ≤ 1) (hal : al.toNat ≤ 1) (hex : ex.toNat ≤ 1)
    (hlow : 64 ≤ nat16 h1 h2) (hhigh : nat16 h1 h2 ≤ 2047) (hn : nat16 n1 n2 ≤ 1439) (he : nat16 e1 e2 ≤ 1439)
    (hws : ws.toNat ≤ 6) (hev : ev.toNat ≤ 15) :
    readPart [p, h1, h2, lv, g, d, n1, n2, e1, e2, ws, ev, al, po, ex] = some
      (partOf p h1 h2 lv g d n1 n2 e1 e2 ws ev al po ex,
        decide (clampTo 1 10 g.toNat ≠ g.toNat) || decide (clampTo 1 10 d.toNat ≠ d.toNat)
          || decide (clampTo 20 200 po.toNat ≠ po.toNat)) := by
  simp only [readPart, yesNo_some hp, yesNo_some hlv, yesNo_some hal, yesNo_some hex]
  exact if_pos ((part_legal_iff _).2 ⟨hlow, hhigh, hn, he, hws, hev⟩)

/-- The reply says whether the clampable fields lay within their limits. -/
theorem clampCode_part (g d po : Nat) :
    clampCode (decide (clampTo 1 10 g ≠ g) || decide (clampTo 1 10 d ≠ d) || decide (clampTo 20 200 po ≠ po)) =
      if 1 ≤ g ∧ g ≤ 10 ∧ 1 ≤ d ∧ d ≤ 10 ∧ 20 ≤ po ∧ po ≤ 200 then .ok else .clamped := by
  have hg := clampTo_ne_iff (lo := 1) (hi := 10) (n := g) (by decide)
  have hd := clampTo_ne_iff (lo := 1) (hi := 10) (n := d) (by decide)
  have hpo := clampTo_ne_iff (lo := 20) (hi := 200) (n := po) (by decide)
  simp only [hg, hd, hpo, ← Bool.decide_or, clampCode, decide_eq_true_eq]
  split
  · next hc => rw [if_neg (by omega)]
  · next hc => rw [if_pos (by omega)]

end Record

/-! ## Storing it -/

section Store

variable {s : State} {r : PartRecord}

/-- The PART record replaced, and the journal's conditions updated by its high mark (R151). -/
def partWritten (r : PartRecord) (s : State) : State := updateJournalConditions s { s with part := r }

theorem writeRun_part {first n : Nat} {records : List Byte} {clamped : Bool} (h : readPart records = some (r, clamped)) :
    writeRun .part first n records s = answer (clampCode clamped) (partWritten r s) := by
  simp only [writeRun, h, partWritten]

@[simp] theorem partWritten_part (r : PartRecord) (s : State) : (partWritten r s).part = r := by
  obtain ⟨q, h⟩ := updateJournalConditions_form s { s with part := r }
  rw [partWritten, h]

/-- The high mark can change JOURNAL_HIGH alone. -/
theorem partWritten_changes (r : PartRecord) (s : State) : (partWritten r s).changes =
    { s.changes with
      journalHigh := s.changes.journalHigh
        || (decide (s.part.highMark ≤ s.journal.entries.length) != decide (r.highMark ≤ s.journal.entries.length)) } := by
  obtain ⟨q, h⟩ := updateJournalConditions_form s { s with part := r }
  have hfull : ({ s with part := r } : State).journalFull = s.journalFull := rfl
  rw [partWritten, h, hfull, bne_self_eq_false, Bool.or_false]
  rfl

/-- Nothing but the record, the change flags and the upward queue changes. -/
theorem partWritten_frame (r : PartRecord) (s : State) : partWritten r s =
    { s with
      part := (partWritten r s).part, changes := (partWritten r s).changes
      link := { s.link with upQueue := (partWritten r s).link.upQueue } } := by
  obtain ⟨q, h⟩ := updateJournalConditions_form s { s with part := r }
  rw [partWritten, h]

/-- Its alert goes by the new global alert enable (log entry 28). -/
theorem partWritten_alerts (r : PartRecord) (s : State) : Alerts s (partWritten r s)
    (({ s with part := r } : State).alertOf
      (!s.changes.journalHigh
        && (decide (s.part.highMark ≤ s.journal.entries.length) != decide (r.highMark ≤ s.journal.entries.length)))
      4 255 (if r.highMark ≤ s.journal.entries.length then 1 else 0)) := by
  have h := updateJournalConditions_alerts s { s with part := r }
  have hfull : ({ s with part := r } : State).journalFull = s.journalFull := rfl
  rw [hfull, journalFrames_high] at h
  simp only [State.journalHigh, decide_eq_true_eq] at h
  exact alerts_congr h rfl rfl

end Store

/-- Settles O21: the refusal by what the bytes name outside their sets, the rest by the record that they read as. -/
theorem partWriteReplaces : Obligations.PartWriteReplaces := by
  unfold Obligations.PartWriteReplaces
  refine fun tag p h1 h2 lv g d n1 n2 e1 e2 ws ev al po ex s h =>
    ⟨fun hout => ?_, fun hp hlv hal hex hlow hhigh hn he hws hev => ?_⟩
  · refine exec_tableWrite h ((tableWrite_checked (t := .part) s.taken rfl (by decide) (by decide) rfl).trans ?_)
    refine writeRun_outside (run := [[p, h1, h2, lv, g, d, n1, n2, e1, e2, ws, ev, al, po, ex]]) s.taken
      (List.forall_mem_singleton.2 rfl) (le_refl 1) ⟨_, List.mem_singleton.2 rfl, ?_⟩ 0
    simp only [TableId.outside, List.getD_cons_zero, List.getD_cons_succ]
    omega
  · have hread := readPart_inside (g := g) (d := d) (po := po) hp hlv hal hex hlow hhigh hn he hws hev
    have hwrite := writeRun_part (s := s.taken) (first := 0) (n := 1) hread
    rw [clampCode_part] at hwrite
    have hact := exec_tableWrite h
      ((tableWrite_checked (t := .part) s.taken rfl (by decide) (by decide) rfl).trans hwrite)
    refine ⟨_, hact, partWritten_part _ _, partWritten_changes _ _, ?_, partWritten_frame _ _⟩
    have halerts := partWritten_alerts (partOf p h1 h2 lv g d n1 n2 e1 e2 ws ev al po ex) s.taken
    rw [partWritten_part]
    exact alerts_congr halerts rfl rfl

end Sys2Proof.Proofs
end

section
/-! PROOF. JOURNAL READ, JOURNAL TRIM and JOURNAL STATUS, and the bytes of a journal entry (R143 to R146, R151 to R154,
R204). -/

namespace Sys2Proof.Proofs

open Machine Laws

/-! ## The three requests -/

section Requests

variable {s u : State} {tag : Byte} {c : ReplyCode} {data : List Byte}

theorem exec_journalRead {count : Byte} (h : Ready (.journalRead tag count) s)
    (hact : journalRead count s.taken = ⟨u, c, data⟩) :
    exec (.journalRead tag count) s = .next (u.reply 80#8 tag c data) :=
  congrArg Host.Outcome.next (request_ready h rfl hact)

theorem journalRead_bad {count : Byte} (h : 7 < count.toNat) : journalRead count s = answer .badIndex s := if_pos h

theorem journalRead_good {count : Byte} (h : count.toNat ≤ 7) : journalRead count s =
    returns
      (be16 s.journal.entries.length ++ be32 s.journal.next.toNat
        ++ (s.journal.entries.take (count.toNat + 1)).flatMap Entry.bytes) s :=
  if_neg (not_lt.2 h)

theorem exec_journalTrim {count : Half} (h : Ready (.journalTrim tag count) s)
    (hact : journalTrim count s.taken = ⟨u, c, data⟩) :
    exec (.journalTrim tag count) s = .next (u.reply 81#8 tag c data) :=
  congrArg Host.Outcome.next (request_ready h rfl hact)

theorem journalTrim_bad {count : Half} (h : count.toNat = 0 ∨ 2048 < count.toNat) :
    journalTrim count s = answer .badIndex s := if_pos h

theorem journalTrim_good {count : Half} (h : 1 ≤ count.toNat) (h' : count.toNat ≤ 2048) : journalTrim count s =
    ⟨trimJournal count.toNat s, .ok,
      be16 (min count.toNat s.journal.entries.length) ++ oldestBytes (trimJournal count.toNat s)⟩ :=
  if_neg fun hout => by
    simp only [Config.journalCap] at hout
    omega

theorem exec_journalStatus {clear : Byte} (h : Ready (.journalStatus tag clear) s)
    (hact : journalStatus clear s.taken = ⟨u, c, data⟩) :
    exec (.journalStatus tag clear) s = .next (u.reply 82#8 tag c data) :=
  congrArg Host.Outcome.next (request_ready h rfl hact)

theorem journalStatus_bad {clear : Byte} (h : 1 < clear.toNat) : journalStatus clear s = answer .badValue s := by
  simp only [journalStatus, yesNo_none h]

/-- The overflow count is cleared if asked, and the reply carries it as it was (R154). -/
theorem journalStatus_good {clear : Byte} (h : clear.toNat ≤ 1) : journalStatus clear s =
    ⟨{ s with journal := { s.journal with overflow := if clear.toNat = 1 then 0 else s.journal.overflow } }, .ok,
      be16 s.journal.entries.length ++ be16 s.journal.overflow ++ flagByte s.part.wrap ++ be16 s.part.highMark
        ++ be8 (bitSet [s.journalHigh, s.journalFull]) ++ oldestBytes s ++ be32 s.journal.next.toNat⟩ := by
  simp only [journalStatus, yesNo_some h, decide_eq_true_eq]
  split <;> rfl

end Requests

/-- The number of the first of some entries, as a stamp's five bytes; state byte 2 when there is none (R153, R202). -/
def oldestOf : List Entry → List Byte
  | e :: _ => 0#8 :: be32 e.number.toNat
  | [] => [2#8, 0#8, 0#8, 0#8, 0#8]

theorem oldestBytes_eq (s : State) : oldestBytes s = oldestOf s.journal.entries := by
  unfold oldestBytes
  cases s.journal.entries <;> rfl

/-! ## What a trim does (R151, R153) -/

section Trim

variable (n : Nat) (s : State)

/-- The journal's conditions are updated and frames sent; the oldest `n` entries are gone. -/
theorem trimJournal_form : ∃ c q, trimJournal n s =
    { s with
      journal := { s.journal with entries := s.journal.entries.drop n }, changes := c
      link := { s.link with upQueue := s.link.upQueue ++ q } } := by
  obtain ⟨q, h⟩ := updateJournalConditions_form s
    { s with journal := { s.journal with entries := s.journal.entries.drop n } }
  exact ⟨_, q, h⟩

@[simp] theorem trimJournal_journal :
    (trimJournal n s).journal = { s.journal with entries := s.journal.entries.drop n } := by
  obtain ⟨c, q, h⟩ := trimJournal_form n s; rw [h]

@[simp] theorem trimJournal_part : (trimJournal n s).part = s.part := by
  obtain ⟨c, q, h⟩ := trimJournal_form n s; rw [h]

/-- Nothing but the journal, the change flags and the upward queue changes. -/
theorem trimJournal_frame : trimJournal n s =
    { s with
      journal := (trimJournal n s).journal, changes := (trimJournal n s).changes
      link := { s.link with upQueue := (trimJournal n s).link.upQueue } } := by
  obtain ⟨c, q, h⟩ := trimJournal_form n s; rw [h]

theorem trimJournal_high :
    (trimJournal n s).journalHigh = decide (s.part.highMark ≤ (s.journal.entries.drop n).length) := by
  rw [State.journalHigh, trimJournal_part, trimJournal_journal]

theorem trimJournal_full :
    (trimJournal n s).journalFull = decide ((s.journal.entries.drop n).length = Config.journalCap) := by
  rw [State.journalFull, trimJournal_journal]

/-- The change flag of each journal condition that the trim changes is set, and no other flag. -/
theorem trimJournal_changes : (trimJournal n s).changes =
    { s.changes with
      journalHigh := s.changes.journalHigh || (s.journalHigh != (trimJournal n s).journalHigh)
      journalFull := s.changes.journalFull || (s.journalFull != (trimJournal n s).journalFull) } := by
  obtain ⟨q, h⟩ := updateJournalConditions_form s
    { s with journal := { s.journal with entries := s.journal.entries.drop n } }
  rw [trimJournal_high, trimJournal_full, trimJournal, h]
  rfl

/-- One frame is offered for each of them that was clear. -/
theorem trimJournal_alerts : Alerts s (trimJournal n s)
    (journalFrames s s.journalHigh s.journalFull (trimJournal n s).journalHigh (trimJournal n s).journalFull) := by
  rw [trimJournal_high, trimJournal_full]
  exact alerts_congr (updateJournalConditions_alerts s
    { s with journal := { s.journal with entries := s.journal.entries.drop n } }) rfl rfl

end Trim

/-! ## The bytes of an entry (R204) -/

/-- The part that entries of all kinds have in common: number, kind and time (R143, R204). -/
def headBytes (number : Word) (time : Option Nat) (kind : Nat) : List Byte :=
  be32 number.toNat ++ be8 kind ++ stampBytes (stampOf time)

theorem entry_bytes_eq (number : Word) (time : Option Nat) (body : EntryBody) :
    (⟨number, time, body⟩ : Entry).bytes = headBytes number time body.kind ++ body.bytes := rfl

/-- Settles O31: each request is answered as its block answers; an entry's bytes kind by kind, the absent reason and the
absent before time apart. -/
theorem journalRequestsReply : Obligations.JournalRequestsReply := by
  unfold Obligations.JournalRequestsReply
  refine ⟨fun tag count s h => ⟨fun hbad => exec_journalRead h (journalRead_bad hbad),
      fun hc => exec_journalRead h (journalRead_good hc)⟩,
    fun tag count s h => ⟨fun hbad => exec_journalTrim h (journalTrim_bad hbad), fun hlow hhigh => ?_⟩,
    fun number time body bytes head hbytes hhead => ?_,
    fun tag clear s h => ⟨fun hbad => exec_journalStatus h (journalStatus_bad hbad), fun hc => ?_⟩⟩
  · have hact := journalTrim_good (s := s.taken) hlow hhigh
    rw [oldestBytes_eq, trimJournal_journal] at hact
    exact ⟨trimJournal count.toNat s.taken, exec_journalTrim h hact, trimJournal_journal .., trimJournal_changes ..,
      trimJournal_alerts _ s.taken, trimJournal_frame ..⟩
  · obtain rfl : head = headBytes number time := funext fun kind => by
      rw [hhead, headBytes]; cases time <;> rfl
    rw [entry_bytes_eq] at hbytes
    subst hbytes
    cases body with
    | punch verdict lane code worker dir outcome reason flags =>
      simp only [EntryBody.bytes, List.append_assoc]
      cases reason with
      | none => rfl
      | some reason => cases reason <;> rfl
    | payline worker rin rout r o1 o2 n p flags =>
      rintro b e rfl rfl hb he
      simp only [EntryBody.bytes, timeBytes_of_gateTime hb, timeBytes_of_gateTime he, List.append_assoc]
      rfl
    | clock before after =>
      simp only [EntryBody.bytes, List.append_assoc]
      cases before <;> rfl
    | muster | door | override_ | evacStart | evacEnd | closeStart | closeDone =>
      simp only [EntryBody.bytes, List.append_assoc]
      rfl
  · have hact := exec_journalStatus h (journalStatus_good (s := s.taken) hc)
    rw [oldestBytes_eq] at hact
    exact hact

end Sys2Proof.Proofs
end

section
/-! PROOF. The cadence that a pattern begins, and the arbitration of bell requests (R158, R163, R164, R168). -/

namespace Sys2Proof.Proofs

open Machine Laws

/-! ## Patterns and their cadences (R158, R164) -/

section Cadences

variable {s : State} {r q : BellRequest} {g : Segment} {rest : List Segment} {c : Cadence}
  {waiting : Option BellRequest}

/-- A pattern whose first segment has a duration plays that segment first. -/
theorem pass_begins {p : Pattern} (h : p.segments = g :: rest) (hd : g.duration ≠ 0) : ∃ l, p.pass = g :: l := by
  rw [Pattern.pass, h]
  exact ⟨_, List.takeWhile_cons_of_pos (decide_eq_true hd)⟩

/-- A pattern with no first segment, or one of duration 0, has an empty pass. -/
theorem pass_empty {p : Pattern} (h : ∀ g rest, p.segments = g :: rest → g.duration = 0) : p.pass = [] := by
  unfold Pattern.pass
  cases hp : p.segments with
  | nil => rfl
  | cons g rest => exact List.takeWhile_cons_of_neg (by simp [h g rest hp])

/-- The cadence of a request that begins with segment `g`, with the repeat count of its pattern as passes left. -/
def begunCadence (s : State) (r : BellRequest) (g : Segment) : Cadence :=
  ⟨r.pattern, s.pattern r.pattern, r.priority, 0, .finite (s.pattern r.pattern).repeats, some g.duration⟩

theorem cadenceOf_begins (h : (s.pattern r.pattern).segments = g :: rest) (hd : g.duration ≠ 0) :
    s.cadenceOf r = some (begunCadence s r g) := by
  obtain ⟨l, hl⟩ := pass_begins h hd
  simp only [State.cadenceOf, startCadence, hl, begunCadence]

theorem cadenceOf_empty (h : ∀ g rest, (s.pattern r.pattern).segments = g :: rest → g.duration = 0) :
    s.cadenceOf r = none := by
  simp only [State.cadenceOf, startCadence, pass_empty h]

theorem activate_begins (h : s.cadenceOf r = some c) : s.activate r waiting = ⟨some c, waiting, false⟩ := by
  simp only [State.activate, h]

/-- A request with an empty pattern completes at once (R164). -/
theorem activate_empty (h : s.cadenceOf r = none) : s.activate r waiting = s.complete waiting := by
  simp only [State.activate, h]

@[simp] theorem complete_none : s.complete none = ⟨none, none, false⟩ := rfl

@[simp] theorem complete_some : s.complete (some q) = ⟨s.cadenceOf q, none, false⟩ := rfl

end Cadences

/-! ## The lines of the table (R163) -/

section Lines

variable {s : State} {a : Arbiter} {r q : BellRequest} {c : Cadence}

theorem arbitrate_evacuating (he : s.evac.evacuating = true) : s.arbitrate a r = (a, .discarded) := if_pos he

theorem arbitrate_idle (he : s.evac.evacuating = false) (ha : a.active = none) :
    s.arbitrate a r = (s.activate r a.waiting, .active) := by
  simp [State.arbitrate, he, ha]

theorem arbitrate_preempts (he : s.evac.evacuating = false) (ha : a.active = some c) (hp : c.priority < r.priority) :
    s.arbitrate a r = (s.activate r a.waiting, .preempted) := by
  simp [State.arbitrate, he, ha, hp]

theorem arbitrate_waits (he : s.evac.evacuating = false) (ha : a.active = some c) (hp : r.priority ≤ c.priority)
    (hw : a.waiting = none) : s.arbitrate a r = ({ a with waiting := some r }, .pending) := by
  simp [State.arbitrate, he, ha, not_lt.2 hp, hw]

theorem arbitrate_replaces (he : s.evac.evacuating = false) (ha : a.active = some c) (hp : r.priority ≤ c.priority)
    (hw : a.waiting = some q) (hq : q.priority < r.priority) :
    s.arbitrate a r = ({ a with waiting := some r }, .replaced) := by
  simp [State.arbitrate, he, ha, not_lt.2 hp, hw, hq]

theorem arbitrate_discards (he : s.evac.evacuating = false) (ha : a.active = some c) (hp : r.priority ≤ c.priority)
    (hw : a.waiting = some q) (hq : r.priority ≤ q.priority) : s.arbitrate a r = (a, .discarded) := by
  simp [State.arbitrate, he, ha, not_lt.2 hp, hw, not_lt.2 hq]

end Lines

/-- Settles O49: the line of the table that fits, and what its activation leaves by the request's pattern and, where
that is empty, by the waiting request and its pattern. -/
theorem bellArbitration : Obligations.BellArbitration := by
  unfold Obligations.BellArbitration
  refine fun s a r => ⟨arbitrate_evacuating, fun he => ⟨fun g rest hg hd => ?_, fun hempty => ?_, fun c ha hp =>
    ⟨arbitrate_waits he ha hp, fun q hw => ⟨arbitrate_replaces he ha hp hw, arbitrate_discards he ha hp hw⟩⟩⟩⟩
  · have hact : s.activate r a.waiting = ⟨some (begunCadence s r g), a.waiting, false⟩ :=
      activate_begins (cadenceOf_begins hg hd)
    rw [← begunCadence, ← hact]
    exact ⟨arbitrate_idle he, fun c => arbitrate_preempts he⟩
  · have hact : s.activate r a.waiting = s.complete a.waiting := activate_empty (cadenceOf_empty hempty)
    refine ⟨fun ha hw => ?_, fun c ha hp => ⟨fun hw => ?_, fun q hw => ⟨fun g rest hg hd => ?_, fun hq => ?_⟩⟩⟩
    · rw [arbitrate_idle he ha, hact, hw, complete_none]
    · rw [arbitrate_preempts he ha hp, hact, hw, complete_none]
    · rw [arbitrate_preempts he ha hp, hact, hw, complete_some, cadenceOf_begins hg hd, begunCadence]
    · rw [arbitrate_preempts he ha hp, hact, hw, complete_some, cadenceOf_empty hq]

end Sys2Proof.Proofs
end

section
/-! PROOF. BELL RING, BELL SILENCE and BELL STATUS (R165 to R169, R202, R203). -/

namespace Sys2Proof.Proofs

open Machine Laws

section Requests

variable {s u : State} {tag outputs pattern priority : Byte} {c : ReplyCode} {data : List Byte}

/-! ## BELL RING (R165) -/

/-- BELL RING is answered as its block answers, unless it is a broadcast. -/
theorem exec_bellRing {b : Bool} (h : Ready (.bellRing b tag outputs pattern priority) s)
    (hact : bellRing outputs pattern priority s.taken = ⟨u, c, data⟩) :
    exec (.bellRing b tag outputs pattern priority) s = .next (u.replyUnless b 96#8 tag c data) := by
  refine congrArg Host.Outcome.next ((takeRequest_ready _ h rfl).trans ?_)
  rw [hact]

theorem bellRing_bad (h : 15 < pattern.toNat ∨ 3 < priority.toNat) :
    bellRing outputs pattern priority s = answer .badValue s := if_pos h

theorem bellRing_good (hp : pattern.toNat ≤ 15) (hq : priority.toNat ≤ 3) : bellRing outputs pattern priority s =
    ⟨ringOutputs outputs ⟨pattern.toNat, priority.toNat⟩ s, .ok,
      bellOutputs.flatMap fun o => be8 (s.ringResult outputs ⟨pattern.toNat, priority.toNat⟩ o).code⟩ :=
  if_neg (by omega)

/-- The byte of an output's result: 5 for NONE where the mask does not select it (R165, R203). -/
theorem ringResult_code (m : Byte) (r : BellRequest) (o : Nat) :
    (s.ringResult m r o).code = if m.getLsbD o then (s.arbitrate (s.arbiter o) r).2.code else 5 :=
  apply_ite BellResult.code _ _ _

/-! ## BELL SILENCE (R166, R169) -/

/-- The state with the silenced arbiter at each output of a mask. -/
def silenced (m : Byte) (s : State) : State :=
  (maskedOutputs m).foldl (fun t o => t.setArbiter o s.silencedArbiter) s

theorem exec_bellSilence (h : Ready (.bellSilence tag outputs) s) :
    exec (.bellSilence tag outputs) s = .next ((silenced outputs s.taken).reply 97#8 tag .ok []) :=
  congrArg Host.Outcome.next (request_ready h rfl rfl)

/-! ## BELL STATUS (R167) -/

theorem exec_bellStatus (h : Ready (.bellStatus tag) s) :
    exec (.bellStatus tag) s = .next (s.taken.reply 98#8 tag .ok (bellOutputs.flatMap s.arbiterBytes)) :=
  congrArg Host.Outcome.next (request_ready h rfl rfl)

/-! ## When an output is asserted (R164, R168) -/

variable {o : Nat} {cd : Cadence}

theorem bellAsserted_idle (h : (s.arbiter o).active = none) : s.bellAsserted o = false := by
  simp [State.bellAsserted, h]

/-- The tone of an empty evacuation pattern sounds throughout (R168). -/
theorem bellAsserted_tone (hr : s.running = true) (h : (s.arbiter o).active = some cd) (hp : cd.copy.pass = []) :
    s.bellAsserted o = true := by
  simp [State.bellAsserted, hr, h, hp]

theorem bellAsserted_level {g : Segment} (hr : s.running = true) (h : (s.arbiter o).active = some cd)
    (hg : cd.copy.pass[cd.segment]? = some g) : s.bellAsserted o = g.level := by
  cases hp : cd.copy.pass with
  | nil => simp [hp] at hg
  | cons _ _ =>
    rw [hp] at hg
    simp [State.bellAsserted, hr, h, hp, hg]

end Requests

/-- A state whose arbiters are those of `f` at a mask's outputs: only arbiters differ, and only in the mask. -/
theorem masked_frame {s u : State} {m : Byte} {f : Nat → Arbiter}
    (h : (∃ a, u = { s with arbiters := a })
      ∧ ∀ o, u.arbiter o = if o < 4 ∧ m.getLsbD o = true then f o else s.arbiter o) :
    u = { s with arbiters := u.arbiters } ∧ (∀ o, o < 4 → m.getLsbD o = true → u.arbiter o = f o)
      ∧ ∀ o, 4 ≤ o ∨ m.getLsbD o = false → u.arbiter o = s.arbiter o := by
  obtain ⟨⟨a, hu⟩, harb⟩ := h
  refine ⟨by rw [hu], fun o ho hm => ?_, fun o ho => ?_⟩
  · rw [harb, if_pos ⟨ho, hm⟩]
  · rw [harb, if_neg]
    rintro ⟨hlt, hm⟩
    rcases ho with ho | ho
    · omega
    · simp [ho] at hm

/-- Settles O50: the block's refusal, and its answer with the arbiters that the mask reaches. -/
theorem bellRingReaches : Obligations.BellRingReaches := by
  unfold Obligations.BellRingReaches
  refine fun b tag outputs pattern priority s h => ⟨fun hbad => exec_bellRing h (bellRing_bad hbad), fun hp hq =>
    ⟨ringOutputs outputs ⟨pattern.toNat, priority.toNat⟩ s.taken, ?_, masked_frame (ringOutputs_spec _ _ s.taken)⟩⟩
  rw [exec_bellRing h (bellRing_good hp hq)]
  simp only [ringResult_code]
  rfl

end Sys2Proof.Proofs
end

section
/-! PROOF. The end of a segment (R164, R168), and how bells play on. -/

namespace Sys2Proof.Proofs

open Machine Laws

section Segments

variable {s : State} {a : Arbiter} {c : Cadence} {g : Segment} {n : Nat}

theorem begin_segment {k : Nat} (passes : Passes) (h : c.copy.pass[k]? = some g) :
    c.begin k passes = { c with segment := k, passes := passes, timer := some g.duration } := by
  simp only [Cadence.begin, h]

theorem afterSegment_next (h : c.copy.pass[c.segment + 1]? = some g) : s.afterSegment a c =
    { a with active := some { c with segment := c.segment + 1, timer := some g.duration } } := by
  obtain ⟨hlt, -⟩ := List.getElem?_eq_some_iff.1 h
  rw [State.afterSegment, if_pos hlt, begin_segment _ h]

theorem afterSegment_endless (hlast : c.copy.pass.length ≤ c.segment + 1) (h : c.copy.pass[0]? = some g)
    (hp : c.passes = .endless) : s.afterSegment a c =
      { a with active := some { c with segment := 0, timer := some g.duration } } := by
  simp only [State.afterSegment, if_neg (not_lt.2 hlast), hp, begin_segment _ h]

theorem afterSegment_repeats (hlast : c.copy.pass.length ≤ c.segment + 1) (h : c.copy.pass[0]? = some g)
    (hp : c.passes = .finite n) (hn : 1 < n) : s.afterSegment a c =
      { a with active := some { c with segment := 0, passes := .finite (n - 1), timer := some g.duration } } := by
  simp only [State.afterSegment, if_neg (not_lt.2 hlast), hp, if_pos hn, begin_segment _ h]

theorem afterSegment_completes (hlast : c.copy.pass.length ≤ c.segment + 1) (hp : c.passes = .finite n) (hn : n ≤ 1) :
    s.afterSegment a c = s.complete a.waiting := by
  simp only [State.afterSegment, if_neg (not_lt.2 hlast), hp, if_neg (not_lt.2 hn)]

/-- What ends is the segment of an output whose timer has run out (log entry 4). -/
theorem exec_segmentEnd {o : Nat} (hr : s.running = true) (ho : o < 4) (ha : (s.arbiter o).active = some c)
    (ht : c.timer = some 0) :
    exec (.segmentEnd o) s = .next (s.setArbiter o (s.afterSegment (s.arbiter o) c)) := by
  refine congrArg Host.Outcome.next ((if_pos ⟨hr, ho⟩).trans ?_)
  simp only [ha, if_pos ht]

end Segments

/-- Settles O51: BELL SILENCE by its mask; the bytes of BELL STATUS item by item and the level of each output; the end of
a segment by what is left of the pass, the passes left, and the waiting request. -/
theorem bellsPlayOn : Obligations.BellsPlayOn := by
  unfold Obligations.BellsPlayOn
  refine ⟨⟨fun tag outputs s h =>
      ⟨silenced outputs s.taken, exec_bellSilence h, masked_frame (silence_spec _ _ s.taken)⟩,
    fun tag s h => ⟨?_, fun o => ⟨bellAsserted_idle, fun c ha =>
      ⟨bellAsserted_tone h.1 ha, fun g => bellAsserted_level h.1 ha⟩⟩⟩⟩, fun o c s hr ho ha ht =>
    ⟨_, exec_segmentEnd hr ho ha ht, rfl, fun k hk => setArbiter_ne _ _ _ _ hk, ?_⟩⟩
  · rw [exec_bellStatus h]
    refine congrArg (fun d => Host.Outcome.next (s.taken.reply 98#8 tag .ok d)) (List.flatMap_congr fun o _ => ?_)
    refine congrArg₂ (· ++ ·) (congrArg₂ (· ++ ·) ?_ ?_) rfl
    · cases (s.arbiter o).active with
      | none => rfl
      | some c => cases c.passes <;> rfl
    · cases (s.arbiter o).waiting <;> rfl
  · rw [setArbiter_same]
    refine ⟨fun g => afterSegment_next, fun hlast g hg => ⟨afterSegment_endless hlast hg, fun n =>
      afterSegment_repeats hlast hg⟩, fun hlast n hp hn => ⟨fun hw => ?_, fun q g rest hw hq hd => ?_⟩,
      fun hlast n q hp hn hw hq => ?_⟩ <;> rw [afterSegment_completes hlast hp hn, hw]
    · rfl
    · rw [complete_some, cadenceOf_begins hq hd, begunCadence]
    · rw [complete_some, cadenceOf_empty hq]

end Sys2Proof.Proofs
end

section
/-! PROOF. Requests and their layouts (R186, R192, R203): laying out and reading undo each other. -/

namespace Sys2Proof.Proofs

open Machine Laws

/-! ## Reading what was laid out -/

/-- Settles O3: a command's layout is matched to its own row; what its fields' bytes hold is the field again. -/
theorem requestRoundTrip : Obligations.RequestRoundTrip := by
  unfold Obligations.RequestRoundTrip
  intro i r h
  cases i
  case unknownRequest q =>
    simp only [encodeRequest] at h
    split at h
    · next hq => cases h; exact hq
    · cases h
  all_goals cases h
  case timeSet b tag time offset =>
    cases b <;> exact congrArg (fun t => Instr.timeSet _ tag t offset) (word_be32 time)
  case timeSlew b tag amount => cases b <;> exact congrArg (Instr.timeSlew _ tag) (half_be16 amount)
  case workerSet tag index status crew rateClass flags =>
    exact congrArg (fun i => Instr.workerSet tag i status crew rateClass flags) (half_be16 index)
  case workerFree tag index => exact congrArg (Instr.workerFree tag) (half_be16 index)
  case presenceSet tag index presence =>
    exact congrArg (fun i => Instr.presenceSet tag i presence) (half_be16 index)
  case workerRead tag first count => exact congrArg (fun i => Instr.workerRead tag i count) (half_be16 first)
  case badgeAdd tag code index => exact congrArg₂ (Instr.badgeAdd tag) (word_be32 code) (half_be16 index)
  case badgeRemove tag code => exact congrArg (Instr.badgeRemove tag) (word_be32 code)
  case badgeFind tag code => exact congrArg (Instr.badgeFind tag) (word_be32 code)
  case badgeRead tag first count => exact congrArg (fun i => Instr.badgeRead tag i count) (half_be16 first)
  case totalsLatch tag selector => exact congrArg (Instr.totalsLatch tag) (half_be16 selector)
  case totalsRead tag first count => exact congrArg (fun i => Instr.totalsRead tag i count) (half_be16 first)
  case closedRead tag first count => exact congrArg (fun i => Instr.closedRead tag i count) (half_be16 first)
  case periodClose tag crews => exact congrArg (Instr.periodClose tag) (half_be16 crews)
  case journalTrim tag count => exact congrArg (Instr.journalTrim tag) (half_be16 count)
  case musterRead tag first count => exact congrArg (fun i => Instr.musterRead tag i count) (half_be16 first)
  case musterList tag start => exact congrArg (Instr.musterList tag) (half_be16 start)
  case bellRing b _ _ _ _ => cases b <;> rfl
  case evacuate b _ => cases b <;> rfl
  all_goals rfl

/-! ## Laying out what was read -/

/-- A request is read as one command whose layout is the request again. -/
def Whole (r : Request) : Prop := encodeRequest (decodeRequest r) = some r

/-- A request that no row takes is kept whole by UNKNOWN_REQUEST. -/
theorem whole_unknown {r : Request} (h : decodeRequest r = .unknownRequest r) : Whole r := by
  rw [Whole, h]
  exact if_pos h

section Rows

variable {b : Bool} {k t : Byte}

/-! ### The kinds by their payload (R203) -/

/-- The addressed kinds without a payload. -/
def emptyKinds : List Byte := [1#8, 6#8, 18#8, 73#8, 74#8, 98#8, 113#8]

/-- The kinds whose payload is one byte. -/
def byteKinds : List Byte := [2#8, 80#8, 82#8, 97#8]

/-- The kinds whose payload is a field of two bytes. -/
def halfKinds : List Byte := [33#8, 64#8, 72#8, 81#8, 115#8]

/-- The kinds whose payload is a field of two bytes and a byte. -/
def halfByteKinds : List Byte := [34#8, 35#8, 39#8, 65#8, 66#8, 114#8]

/-- The kinds whose payload is a field of four bytes. -/
def wordKinds : List Byte := [37#8, 38#8]

/-- The kinds with a payload of a form of their own. -/
def ownKinds : List Byte := [3#8, 4#8, 5#8, 32#8, 36#8, 48#8, 49#8]

/-- The four kinds that are taken at address 31 too (R189). -/
def bothKinds : List Byte := [16#8, 17#8, 96#8, 112#8]

/-- A row's layout gives the bytes it was read from. -/
theorem whole_layout {p q : List Byte} (h : encodeRequest (decodeRequest ⟨b, k, t, p⟩) = some ⟨b, k, t, q⟩) (hq : q = p) :
    Whole ⟨b, k, t, p⟩ := hq ▸ h

theorem whole_empty (hk : k ∈ emptyKinds) (p : List Byte) : Whole ⟨false, k, t, p⟩ := by
  simp only [emptyKinds, List.mem_cons, List.not_mem_nil, or_false] at hk
  rcases hk with rfl | rfl | rfl | rfl | rfl | rfl | rfl
  all_goals
    cases p with
    | nil => rfl
    | cons _ _ => exact whole_unknown rfl

theorem whole_byte (hk : k ∈ byteKinds) (p : List Byte) : Whole ⟨false, k, t, p⟩ := by
  simp only [byteKinds, List.mem_cons, List.not_mem_nil, or_false] at hk
  rcases hk with rfl | rfl | rfl | rfl
  all_goals
    match p with
    | [_] => rfl
    | [] | _ :: _ :: _ => exact whole_unknown rfl

theorem whole_half (hk : k ∈ halfKinds) (p : List Byte) : Whole ⟨false, k, t, p⟩ := by
  simp only [halfKinds, List.mem_cons, List.not_mem_nil, or_false] at hk
  rcases hk with rfl | rfl | rfl | rfl | rfl
  all_goals
    match p with
    | [x, y] => exact whole_layout rfl (be16_half x y)
    | [] | [_] | _ :: _ :: _ :: _ => exact whole_unknown rfl

theorem whole_halfByte (hk : k ∈ halfByteKinds) (p : List Byte) : Whole ⟨false, k, t, p⟩ := by
  simp only [halfByteKinds, List.mem_cons, List.not_mem_nil, or_false] at hk
  rcases hk with rfl | rfl | rfl | rfl | rfl | rfl
  all_goals
    match p with
    | [x, y, z] => exact whole_layout rfl (congrArg (· ++ [z]) (be16_half x y))
    | [] | [_] | [_, _] | _ :: _ :: _ :: _ :: _ => exact whole_unknown rfl

theorem whole_word (hk : k ∈ wordKinds) (p : List Byte) : Whole ⟨false, k, t, p⟩ := by
  simp only [wordKinds, List.mem_cons, List.not_mem_nil, or_false] at hk
  rcases hk with rfl | rfl
  all_goals
    match p with
    | [c1, c2, c3, c4] => exact whole_layout rfl (be32_word c1 c2 c3 c4)
    | [] | [_] | [_, _] | [_, _, _] | _ :: _ :: _ :: _ :: _ :: _ => exact whole_unknown rfl

/-- LANE COMMAND: the four commands, and any other byte is read as a request that no row takes (R72). -/
theorem whole_laneCommand : ∀ p, Whole ⟨false, 48#8, t, p⟩
  | [l, c] => by
    by_cases h0 : c = 0#8
    · subst h0; rfl
    by_cases h1 : c = 1#8
    · subst h1; rfl
    by_cases h2 : c = 2#8
    · subst h2; rfl
    by_cases h3 : c = 3#8
    · subst h3; rfl
    exact whole_unknown ((if_neg h0).trans ((if_neg h1).trans ((if_neg h2).trans (if_neg h3))))
  | [] | [_] | _ :: _ :: _ :: _ => whole_unknown rfl

/-- LANE COUNTERS: the three operations, and any other byte (R80). -/
theorem whole_laneCounters : ∀ p, Whole ⟨false, 49#8, t, p⟩
  | [o, l] => by
    by_cases h0 : o = 0#8
    · subst h0; rfl
    by_cases h1 : o = 1#8
    · subst h1; rfl
    by_cases h2 : o = 2#8
    · subst h2; rfl
    exact whole_unknown ((if_neg h0).trans ((if_neg h1).trans (if_neg h2)))
  | [] | [_] | _ :: _ :: _ :: _ => whole_unknown rfl

theorem whole_alertMask : ∀ p, Whole ⟨false, 3#8, t, p⟩
  | [_, _] => rfl
  | [] | [_] | _ :: _ :: _ :: _ => whole_unknown rfl

theorem whole_tableWrite : ∀ p, Whole ⟨false, 4#8, t, p⟩
  | _ :: _ :: _ :: _ => rfl
  | [] | [_] | [_, _] => whole_unknown rfl

theorem whole_tableRead : ∀ p, Whole ⟨false, 5#8, t, p⟩
  | [_, _, _] => rfl
  | [] | [_] | [_, _] | _ :: _ :: _ :: _ :: _ => whole_unknown rfl

theorem whole_workerSet : ∀ p, Whole ⟨false, 32#8, t, p⟩
  | [x, y, st, cr, rc, fl] => whole_layout rfl (congrArg (· ++ [st, cr, rc, fl]) (be16_half x y))
  | [] | [_] | [_, _] | [_, _, _] | [_, _, _, _] | [_, _, _, _, _] | _ :: _ :: _ :: _ :: _ :: _ :: _ :: _ =>
    whole_unknown rfl

theorem whole_badgeAdd : ∀ p, Whole ⟨false, 36#8, t, p⟩
  | [c1, c2, c3, c4, x, y] => whole_layout rfl (congrArg₂ (· ++ ·) (be32_word c1 c2 c3 c4) (be16_half x y))
  | [] | [_] | [_, _] | [_, _, _] | [_, _, _, _] | [_, _, _, _, _] | _ :: _ :: _ :: _ :: _ :: _ :: _ :: _ =>
    whole_unknown rfl

/-! ### The four kinds that are taken at address 31 too (R189) -/

theorem whole_timeSet (p : List Byte) : Whole ⟨b, 16#8, t, p⟩ := by
  cases b
  all_goals
    match p with
    | [c1, c2, c3, c4, o] => exact whole_layout rfl (congrArg (· ++ [o]) (be32_word c1 c2 c3 c4))
    | [] | [_] | [_, _] | [_, _, _] | [_, _, _, _] | _ :: _ :: _ :: _ :: _ :: _ :: _ => exact whole_unknown rfl

theorem whole_timeSlew (p : List Byte) : Whole ⟨b, 17#8, t, p⟩ := by
  cases b
  all_goals
    match p with
    | [x, y] => exact whole_layout rfl (be16_half x y)
    | [] | [_] | _ :: _ :: _ :: _ => exact whole_unknown rfl

theorem whole_bellRing (p : List Byte) : Whole ⟨b, 96#8, t, p⟩ := by
  cases b
  all_goals
    match p with
    | [_, _, _] => rfl
    | [] | [_] | [_, _] | _ :: _ :: _ :: _ :: _ => exact whole_unknown rfl

theorem whole_evacuate (p : List Byte) : Whole ⟨b, 112#8, t, p⟩ := by
  cases b
  all_goals
    match p with
    | [] => rfl
    | _ :: _ => exact whole_unknown rfl

theorem whole_both (hk : k ∈ bothKinds) (p : List Byte) : Whole ⟨b, k, t, p⟩ := by
  simp only [bothKinds, List.mem_cons, List.not_mem_nil, or_false] at hk
  rcases hk with rfl | rfl | rfl | rfl
  · exact whole_timeSet p
  · exact whole_timeSlew p
  · exact whole_bellRing p
  · exact whole_evacuate p

/-! ### Every other kind -/

/-- The kinds that some row takes. -/
def requestKinds : List Byte :=
  bothKinds ++ emptyKinds ++ byteKinds ++ halfKinds ++ halfByteKinds ++ wordKinds ++ ownKinds

/-- A kind that no row takes is one of the other 221 numbers, and each is read as UNKNOWN_REQUEST whatever the payload. -/
theorem decodePlain_other (hk : k ∉ requestKinds) (p : List Byte) :
    decodePlain ⟨b, k, t, p⟩ = .unknownRequest ⟨b, k, t, p⟩ := by
  obtain ⟨⟨k, h⟩⟩ := k
  interval_cases k
  all_goals try rfl
  all_goals exact absurd (of_decide_eq_true rfl) hk

theorem decodeBroadcast_other (hk : k ∉ bothKinds) (p : List Byte) :
    decodeBroadcast ⟨b, k, t, p⟩ = .unknownRequest ⟨b, k, t, p⟩ := by
  obtain ⟨⟨k, h⟩⟩ := k
  interval_cases k
  all_goals try rfl
  all_goals exact absurd (of_decide_eq_true rfl) hk

theorem whole_addressed (p : List Byte) : Whole ⟨false, k, t, p⟩ := by
  by_cases hk : k ∈ requestKinds
  · simp only [requestKinds, List.mem_append, or_assoc] at hk
    rcases hk with hk | hk | hk | hk | hk | hk | hk
    · exact whole_both hk p
    · exact whole_empty hk p
    · exact whole_byte hk p
    · exact whole_half hk p
    · exact whole_halfByte hk p
    · exact whole_word hk p
    · simp only [ownKinds, List.mem_cons, List.not_mem_nil, or_false] at hk
      rcases hk with rfl | rfl | rfl | rfl | rfl | rfl | rfl
      · exact whole_alertMask p
      · exact whole_tableWrite p
      · exact whole_tableRead p
      · exact whole_workerSet p
      · exact whole_badgeAdd p
      · exact whole_laneCommand p
      · exact whole_laneCounters p
  · exact whole_unknown (decodePlain_other hk p)

theorem whole_broadcast (p : List Byte) : Whole ⟨true, k, t, p⟩ := by
  by_cases hk : k ∈ bothKinds
  · exact whole_both hk p
  · exact whole_unknown (decodeBroadcast_other hk p)

end Rows

/-- Settles O4: by the kind of the request, and its payload's length. -/
theorem requestLayoutIsWhole : Obligations.RequestLayoutIsWhole := by
  unfold Obligations.RequestLayoutIsWhole
  rintro ⟨_ | _, kind, tag, payload⟩
  · exact whole_addressed payload
  · exact whole_broadcast payload

end Sys2Proof.Proofs
end

section
/-! PROOF. A request that no row takes (R192; log entry 11). -/

namespace Sys2Proof.Proofs

open Machine Laws

section Unknown

variable {r : Request}

theorem unknownCode_otherKind (hc : r.kind ≠ 48#8) (hn : r.kind ≠ 49#8) : unknownCode r = .badValue := by
  have hc' : r.kind.toNat ≠ 48 := fun h => hc (BitVec.eq_of_toNat_eq h)
  have hn' : r.kind.toNat ≠ 49 := fun h => hn (BitVec.eq_of_toNat_eq h)
  unfold unknownCode
  split
  · next h _ => exact absurd h hc'
  · next h _ => exact absurd h hn'
  · rfl

theorem unknownCode_otherLength (h : r.payload.length ≠ 2) : unknownCode r = .badValue := by
  unfold unknownCode
  split
  · next hp => exact absurd (congrArg List.length hp) h
  · next hp => exact absurd (congrArg List.length hp) h
  · rfl

/-- A LANE COMMAND has its lane checked first (R72). -/
theorem unknownCode_laneCommand {l c : Byte} (hk : r.kind = 48#8) (hp : r.payload = [l, c]) :
    unknownCode r = if 15 < l.toNat then .badIndex else .badValue := by
  simp only [unknownCode, hk, hp]
  rfl

/-- A LANE COUNTERS has its selector checked first (R80). -/
theorem unknownCode_laneCounters {o l : Byte} (hk : r.kind = 49#8) (hp : r.payload = [o, l]) :
    unknownCode r = if l.toNat ≤ 15 ∨ l = 255#8 then .badValue else .badIndex := by
  have hcode : unknownCode r = if (selectedLanes l).isNone then .badIndex else .badValue := by
    simp only [unknownCode, hk, hp]
    rfl
  rw [hcode]
  split_ifs with hn hs hs
  · obtain ⟨lanes, hl, -⟩ := selectedLanes_some hs
    simp [hl] at hn
  · rfl
  · rfl
  · exact absurd (by rw [selectedLanes_none (by omega) fun h => hs (.inr h)]; rfl) hn

end Unknown

/-- Settles O22: the ready request is taken and answered with its code. -/
theorem unknownRequestIsAnswered : Obligations.UnknownRequestIsAnswered := by
  unfold Obligations.UnknownRequestIsAnswered
  intro r s h
  obtain ⟨-, -, -, q, hq, -⟩ := id h
  have hr : encodeRequest (.unknownRequest r) = some r := by
    obtain ⟨hd, -⟩ : decodeRequest r = .unknownRequest r ∧ some r = some q := by simpa [encodeRequest] using hq
    exact if_pos hd
  exact ⟨unknownCode r, congrArg Host.Outcome.next (takeRequest_ready _ h hr), unknownCode_otherKind,
    unknownCode_otherLength, fun l c => unknownCode_laneCommand, fun o l => unknownCode_laneCounters⟩

end Sys2Proof.Proofs
end

section
/-! PROOF. A reply in parts (R186, R192). -/

namespace Sys2Proof.Proofs

open Machine Laws

theorem replyParts_ne_nil (n : Nat) (d : List Byte) : replyParts n d ≠ [] := by
  cases n with
  | zero => simp [replyParts]
  | succ n => unfold replyParts; split <;> simp

theorem replyParts_flatten (n : Nat) (d : List Byte) : (replyParts n d).flatten = d := by
  induction n generalizing d with
  | zero => simp [replyParts]
  | succ n ih =>
    unfold replyParts
    split
    · simp
    · rw [List.flatten_cons, ih, List.take_append_drop]

theorem replyParts_length (n : Nat) (d : List Byte) : (replyParts n d).length ≤ n + 1 := by
  induction n generalizing d with
  | zero => simp [replyParts]
  | succ n ih =>
    unfold replyParts
    split
    · simp
    · exact Nat.succ_le_succ (ih _)

/-- Data that fits in its parts: each part but the last is full, and none is longer (R192). -/
theorem replyParts_full {n k : Nat} {d p : List Byte} (h : d.length ≤ 238 * (n + 1))
    (hp : (replyParts n d)[k]? = some p) :
    p.length ≤ 238 ∧ (k + 1 < (replyParts n d).length → p.length = 238) := by
  induction n generalizing d k with
  | zero =>
    obtain ⟨rfl, rfl⟩ : k = 0 ∧ d = p := by simpa [replyParts, List.getElem?_singleton] using hp
    exact ⟨by omega, fun hk => by simp [replyParts] at hk⟩
  | succ n ih =>
    unfold replyParts at hp ⊢
    split at hp
    · next hd =>
      obtain ⟨rfl, rfl⟩ : k = 0 ∧ d = p := by simpa [List.getElem?_singleton] using hp
      exact ⟨hd, fun hk => by simp [hd] at hk⟩
    · next hd =>
      rw [if_neg hd]
      cases k with
      | zero =>
        obtain rfl : d.take 238 = p := by simpa using hp
        simp only [List.length_take]
        omega
      | succ k =>
        have := ih (d := d.drop 238) (by simp only [List.length_drop]; omega) (by simpa using hp)
        simpa using this

section Frames

variable {r : Request} {code : ReplyCode}

theorem replyFrames_length (n : Nat) (l : List (List Byte)) : (replyFrames r code n l).length = l.length := by
  induction l generalizing n with
  | nil => rfl
  | cons d l ih =>
    cases l with
    | nil => rfl
    | cons e l => exact congrArg (· + 1) (ih (n + 1))

/-- The frame of a part: kind and tag, then code, part byte and the part; the part byte of the last has the top bit
(R186). -/
theorem replyFrames_get {l : List (List Byte)} {n k : Nat} {f : UpFrame} (hf : (replyFrames r code n l)[k]? = some f) :
    ∃ d, l[k]? = some d ∧ f = ⟨r.kind, r.tag,
      BitVec.ofNat 8 code.code :: BitVec.ofNat 8 (if k + 1 = l.length then n + k + 128 else n + k) :: d⟩ := by
  induction l generalizing n k with
  | nil => simp [replyFrames] at hf
  | cons d l ih =>
    cases l with
    | nil =>
      obtain ⟨rfl, rfl⟩ := by simpa [replyFrames, List.getElem?_singleton] using hf
      exact ⟨d, rfl, rfl⟩
    | cons e l =>
      cases k with
      | zero =>
        obtain rfl := by simpa [replyFrames] using hf
        exact ⟨d, rfl, by simp [be8]⟩
      | succ k =>
        obtain ⟨p, hp, rfl⟩ := ih hf
        rw [show n + 1 + k = n + (k + 1) by omega]
        exact ⟨p, hp, by simp only [List.length_cons, Nat.add_right_cancel_iff]⟩

theorem replyFrames_payloads (n : Nat) (l : List (List Byte)) :
    ((replyFrames r code n l).flatMap fun f => f.payload.drop 2) = l.flatten := by
  induction l generalizing n with
  | nil => rfl
  | cons d l ih =>
    cases l with
    | nil => simp [replyFrames, be8]
    | cons e l =>
      simp only [replyFrames, List.flatMap_cons, ih]
      rfl

end Frames

/-- Settles O6: the parts by induction on how many may follow, and one frame for each. -/
theorem replyIsCutInParts : Obligations.ReplyIsCutInParts := by
  unfold Obligations.ReplyIsCutInParts
  intro kind tag code data hdata
  have hlen := replyParts_length 3 data
  have hpos := List.length_pos_iff.2 (replyParts_ne_nil 3 data)
  refine ⟨_, rfl, ?_, ?_, ?_, fun k f hf => ?_⟩
  · rwa [replyFrames_length]
  · rwa [replyFrames_length]
  · rw [replyFrames_payloads, replyParts_flatten]
  · obtain ⟨d, hd, rfl⟩ := replyFrames_get hf
    obtain ⟨hle, hfull⟩ := replyParts_full (n := 3) hdata hd
    rw [replyFrames_length]
    refine ⟨rfl, rfl, by simp, fun hk => ?_, Nat.add_le_add_right hle 2⟩
    simp [hfull hk]

end Sys2Proof.Proofs
end

section
/-! PROOF. STATUS READ and ALERT MASK (R195, R196). -/

namespace Sys2Proof.Proofs

open Machine Laws

section Requests

variable {s u : State} {tag clear mask enable : Byte} {c : ReplyCode} {data : List Byte}

theorem exec_statusRead (h : Ready (.statusRead tag clear) s) (hact : statusRead clear s.taken = ⟨u, c, data⟩) :
    exec (.statusRead tag clear) s = .next (u.reply 2#8 tag c data) :=
  congrArg Host.Outcome.next (request_ready h rfl hact)

theorem statusRead_bad (h : 1 < clear.toNat) : statusRead clear s = answer .badValue s := by
  simp only [statusRead, yesNo_none h]

theorem statusRead_good (h : clear.toNat ≤ 1) : statusRead clear s =
    ⟨if clear.toNat = 1 then clearStatus s else s, .ok, s.statusBytes⟩ := by
  simp only [statusRead, yesNo_some h, decide_eq_true_eq]

/-- A clear leaves the lanes without change flags, and every other item of a lane (R196). -/
theorem clearStatus_lane (h : Table.wf Lane.cold s.lanes = true) (n : Nat) :
    (clearStatus s).lane n = { s.lane n with changes := LaneConditions.clear } :=
  get_update h (f := Lane.unflagged) rfl n

theorem exec_alertMask (h : Ready (.alertMask tag mask enable) s) (hact : alertMaskSet mask enable s.taken = ⟨u, c, data⟩) :
    exec (.alertMask tag mask enable) s = .next (u.reply 3#8 tag c data) :=
  congrArg Host.Outcome.next (request_ready h rfl hact)

theorem alertMaskSet_bad (h : 1 < enable.toNat) : alertMaskSet mask enable s = answer .badValue s := by
  simp only [alertMaskSet, yesNo_none h]

theorem alertMaskSet_good (h : enable.toNat ≤ 1) : alertMaskSet mask enable s =
    answer .ok { s with
      link := { s.link with alertMask := mask }, part := { s.part with alertEnable := decide (enable.toNat = 1) } } := by
  simp only [alertMaskSet, yesNo_some h]

end Requests

/-- Settles O17: each block's refusal and its answer; the clear acts on the lanes through the table's update. -/
theorem statusRequestsReply : Obligations.StatusRequestsReply := by
  unfold Obligations.StatusRequestsReply
  refine ⟨fun tag clear s h hw => ⟨fun hbad => exec_statusRead h (statusRead_bad hbad), fun hgood =>
      ⟨_, exec_statusRead h (statusRead_good hgood), fun h0 => ?_, fun h1 => ?_⟩⟩,
    fun tag mask enable s h => ⟨fun hbad => exec_alertMask h (alertMaskSet_bad hbad), fun hgood =>
      exec_alertMask h (alertMaskSet_good hgood)⟩⟩
  · exact if_neg (by omega)
  · rw [if_pos h1]
    exact ⟨clearStatus_lane (s := s.taken) hw, rfl⟩

end Sys2Proof.Proofs
end

section
/-! PROOF. What the two transmitters send (R186, R189, R190, R193), and the status digest (R194). -/

namespace Sys2Proof.Proofs

open Machine Laws

section Transmitters

variable {s : State}

/-! ## The source that is taken (R190) -/

theorem nextSource_own {f : UpFrame} {rest : List UpFrame} (hq : s.link.upQueue = f :: rest)
    (hf : s.link.upForward = [] ∨ s.link.lastSource = some .forward) : nextSource s = some .own := by
  cases hw : s.link.upForward with
  | nil => simp only [nextSource, hq, hw]
  | cons g more =>
    have hl : s.link.lastSource = some .forward := hf.resolve_left (by simp [hw])
    simp only [nextSource, hq, hw, hl]

theorem nextSource_forward {f : List Byte} {rest : List (List Byte)} (hw : s.link.upForward = f :: rest)
    (hq : s.link.upQueue = [] ∨ s.link.lastSource = some .own) : nextSource s = some .forward := by
  cases hu : s.link.upQueue with
  | nil => simp only [nextSource, hu, hw]
  | cons g more =>
    have hl : s.link.lastSource = some .own := hq.resolve_left (by simp [hu])
    simp only [nextSource, hu, hw, hl]

/-! ## What leaves (R186, R193) -/

theorem transmit_source {src : UpSource} (hr : s.running = true) (hn : s.link.restart ≠ some 0)
    (hs : nextSource s = some src) : transmit s = transmitFrom src s := by
  rw [transmit, if_pos ⟨hr, hn⟩, hs]

/-- The part's own frame leaves, and a RESTART reply behind it comes one frame nearer (R207). -/
theorem transmitFrom_own {f : UpFrame} {rest : List UpFrame} (hq : s.link.upQueue = f :: rest) :
    transmitFrom .own s =
      { s with link := { s.link with
          upQueue := rest, upLine := some (upwardBytes s f), lastSource := some .own,
          restart := s.link.restart.map fun n => n - 1 } } := by
  simp only [transmitFrom, hq]

theorem transmitFrom_forward {f : List Byte} {rest : List (List Byte)} (hw : s.link.upForward = f :: rest) :
    transmitFrom .forward s =
      { s with link := { s.link with upForward := rest, upLine := some f, lastSource := some .forward } } := by
  simp only [transmitFrom, hw]

theorem downwardSend_oldest {f : List Byte} {rest : List (List Byte)} (hr : s.running = true)
    (hd : s.link.downForward = f :: rest) :
    downwardSend s = { s with link := { s.link with downForward := rest, downLine := some f } } := by
  simp only [downwardSend, if_pos hr, hd]

end Transmitters

/-! ## The status digest (R194) -/

/-- A byte of eight yes/no entries has each in its own bit. -/
theorem bitSet_getLsbD (b0 b1 b2 b3 b4 b5 b6 b7 : Bool) :
    let d : Byte := BitVec.ofNat 8 (bitSet [b0, b1, b2, b3, b4, b5, b6, b7])
    (d.getLsbD 0 = b0 ∧ d.getLsbD 1 = b1 ∧ d.getLsbD 4 = b4 ∧ d.getLsbD 5 = b5 ∧ d.getLsbD 6 = b6 ∧ d.getLsbD 7 = b7)
      ∧ d.toNat / 4 % 4 = b2.toNat + 2 * b3.toNat := by
  revert b0 b1 b2 b3 b4 b5 b6 b7
  decide

theorem conditionsAny_iff (c : LaneConditions) : c.any = true ↔
    c.lost = true ∨ c.forced = true ∨ c.held = true ∨ c.tamper = true := by
  simp [LaneConditions.any, or_assoc]

theorem laneAlarm_iff (s : State) : s.laneAlarm = true ↔
    ∃ n, n < 16 ∧ (s.laneRecord n).enabled = true ∧ (s.lane n).conditions.any = true := by
  simp [State.laneAlarm, laneNumbers]

theorem anyChange_iff (s : State) : s.anyChange = true ↔
    (∃ n, n < 16 ∧ (s.lane n).changes.any = true) ∨ s.changes.journalHigh = true ∨ s.changes.journalFull = true
      ∨ s.changes.evacuating = true ∨ s.changes.closeDone = true := by
  simp [State.anyChange, laneNumbers, or_assoc]

/-- The phase's two bits hold its position in the list of phases. -/
theorem phase_bits (p : ClosePhase) :
    (decide (p.code % 2 = 1)).toNat + 2 * (decide (2 ≤ p.code)).toNat =
      (match p with | .idle => 0 | .gathering => 1 | .walking => 2 | .suspended => 3) := by
  cases p <;> rfl

/-- Settles O24: the source by the two buffers, what the source sends, and the digest bit by bit. -/
theorem transmittersSend : Obligations.TransmittersSend := by
  unfold Obligations.TransmittersSend
  refine ⟨⟨fun s f rest hr hn hq hf => ⟨_, rfl, ?_⟩, fun s f rest hr hn hw hq => ?_, fun s f rest hr hd =>
    congrArg Host.Outcome.next (downwardSend_oldest hr hd)⟩, fun s => ?_⟩
  · have hwait : s.link.restart.map (fun n => n - 1) = s.link.restart := by rw [hn]; rfl
    refine congrArg Host.Outcome.next ?_
    rw [transmit_source hr (by simp [hn]) (nextSource_own hq hf), transmitFrom_own hq, hwait]
    rfl
  · refine congrArg Host.Outcome.next ?_
    rw [transmit_source hr (by simp [hn]) (nextSource_forward hw hq), transmitFrom_forward hw]
  · obtain ⟨⟨h0, h1, h4, h5, h6, h7⟩, hphase⟩ := bitSet_getLsbD s.clock.valid s.evac.evacuating
      (decide (s.close.phase.code % 2 = 1)) (decide (2 ≤ s.close.phase.code)) s.journalHigh s.journalFull s.laneAlarm
      s.anyChange
    refine ⟨h0, h1, hphase.trans (phase_bits _), h4, h5, ?_, ?_⟩
    · rw [State.digest, h6, laneAlarm_iff]
      simp only [conditionsAny_iff]
    · rw [State.digest, h7, anyChange_iff]
      simp only [conditionsAny_iff]

end Sys2Proof.Proofs
end

section
/-! PROOF. How a start begins, and how RESTART waits for its reply (R205, R207). -/

namespace Sys2Proof.Proofs

open Machine Laws

section Restart

variable {s : State} {tag : Byte}

/-- A RESTART that is taken waits for its reply, the last frame of the queue. -/
theorem exec_restart (h : Ready (.restart tag) s) :
    exec (.restart tag) s =
      .next { s.taken with link := { s.taken.link with
        restart := some (s.link.upQueue.length + 1), upQueue := s.link.upQueue ++ [⟨6#8, tag, [0#8, 128#8]⟩] } } := by
  refine congrArg Host.Outcome.next ((request_ready h rfl rfl).trans ?_)
  rw [reply_short _ _ _ _ _ (Nat.zero_le _)]
  rfl

theorem restartReplySent_begins (hr : s.running = true) (h : s.link.restart = some 0) :
    restartReplySent s = { s with power := { s.power with starting := some .warmRestart } } := by
  have hs : s.power.starting = none := Option.isNone_iff_eq_none.1 hr
  rw [restartReplySent, if_pos ⟨hr, h⟩, beginStart, hs]
  rfl

end Restart

/-- Settles O9: the power events by their conditions, and RESTART from its reply's place in the queue to its start. -/
theorem startsBeginAndRestart : Obligations.StartsBeginAndRestart := by
  unfold Obligations.StartsBeginAndRestart
  refine ⟨⟨fun s => ⟨mainPowerLost s, rfl, ?_⟩, fun s => rfl, fun s => ⟨retainedLost s, rfl, ?_⟩,
    fun s => ⟨powerUp s, rfl, ?_⟩⟩, fun tag s h => ?_, fun s f rest n hr hw hq hn => ?_, fun s hr h =>
    congrArg Host.Outcome.next (restartReplySent_begins hr h)⟩
  · cases hp : s.power.mainPower <;> simp [mainPowerLost, beginStart, hp]
  · cases hp : s.power.mainPower <;> simp [retainedLost, hp]
  · cases hp : s.power.mainPower <;> cases hb : s.power.retained <;> simp [powerUp, beginStart, hp, hb]
  · exact ⟨_, exec_restart h, rfl, by simp, rfl⟩
  · refine ⟨_, congrArg Host.Outcome.next
      ((transmit_source hr (by simp [hn]) (nextSource_own hq (.inl hw))).trans (transmitFrom_own hq)), rfl, ?_⟩
    rw [hn]
    rfl

end Sys2Proof.Proofs
end

section
/-! PROOF. While a start goes on (R14, R205; log entries 14, 18, 35): the blocks stand, and the Gate Clock alone counts. -/

namespace Sys2Proof.Proofs

open Machine Laws

section Stopped

variable {s : State}

/-! ## The commands that find no block running -/

/-- The commands that act during a start: the power events, the end of the start, and the two clock commands. -/
def actsInStart : Instr → Bool
  | .powerUp | .mainPowerLost | .resetInputActive | .retainedDomainLost | .startComplete _ _ _ | .tick100ms _ _
  | .secondTick => true
  | _ => false

/-- A request that arrives during a start is lost (R205). -/
theorem takeRequest_stopped (hr : s.running = false) (i : Instr) (act : State → Answer) : takeRequest i act s = s := by
  unfold takeRequest
  split
  · rfl
  · exact if_neg (by simp [hr])

theorem headEvent_stopped (hr : s.running = false) (n : Nat) (bit : Bool) (act : State → State) :
    headEvent n bit act s = s :=
  headEvent_ignored (by simp [State.awaitsReply, hr])

/-- Every event but the seven asks whether the blocks run. -/
theorem eventEffect_stopped (hr : s.running = false) {i : Instr} (hi : actsInStart i = false) : eventEffect i s = s := by
  have hstop : ¬ s.running = true := by simp [hr]
  cases i
  case downwardFrameReceived => exact if_neg hstop
  case upwardFrameReceived => exact if_neg hstop
  case downwardForwardSend => exact if_neg hstop
  case headPunch | headDoorOpen | headDoorClosed | headTamperOn | headTamperOff => exact headEvent_stopped hr _ _ _
  case headEmpty n => exact if_neg (by simp [State.awaitsReply, hr])
  case powerUp | mainPowerLost | resetInputActive | retainedDomainLost | startComplete | tick100ms | secondTick => cases hi
  case upwardTransmit | restartReplySent | segmentEnd | pollTimerExpiry | laneReplyBad | laneReplyMissed |
    releaseTimerExpiry | heldTimerExpiry | gatherTimerExpiry | walkStep | fireActive | fireInactive | chainLevelActive |
    chainLevelInactive => exact if_neg fun h => hstop h.1
  all_goals rfl

theorem exec_stopped (hr : s.running = false) {i : Instr} (hi : actsInStart i = false) : exec i s = .next s := by
  rw [exec_eq, effect]
  cases owningBlock i with
  | some act => exact congrArg Host.Outcome.next (takeRequest_stopped hr i act)
  | none => exact congrArg Host.Outcome.next (eventEffect_stopped hr hi)

/-! ## The Gate Clock (R14) -/

theorem counts_stopped (hr : s.running = false) : s.counts = s.power.retained := by simp [State.counts, hr]

theorem tick_lost (hr : s.running = false) (hb : s.power.retained = false) (fire chain : Bool) : tick fire chain s = s := by
  simp [tick, hr, hb]

theorem tick_retained (hr : s.running = false) (hb : s.power.retained = true) (fire chain : Bool) :
    tick fire chain s = { s with clock := s.clock.tick } := by
  simp [tick, hr, hb]

theorem secondTick_still (hr : s.running = false) (h : s.power.retained = false ∨ s.clock.secondsDue = 0) :
    secondTick s = s := by
  refine if_neg ?_
  rw [counts_stopped hr]
  rintro ⟨hb, hd⟩
  rcases h with h | h
  · simp [h] at hb
  · omega

/-- A second tick during a start moves the clock, and no advance event follows (R7, R14). -/
theorem secondTick_retained (hr : s.running = false) (hb : s.power.retained = true) (hd : 0 < s.clock.secondsDue) :
    secondTick s = { s with clock := s.clock.second } := by
  simp [secondTick, counts_stopped hr, hr, hb, hd]

theorem millisecond_stopped (hr : s.running = false) :
    millisecond s =
      if s.power.retained ∧ s.clock.msDivider < 99 then
        { s with clock := { s.clock with msDivider := s.clock.msDivider + 1 } }
      else s := by
  simp only [millisecond, counts_stopped hr, hr, Bool.false_eq_true, if_false]

/-- A tick of the clock moves its dividers and the second ticks due alone. -/
theorem tick_frame (c : Clock) :
    c.tick =
      { c with
        msDivider := c.tick.msDivider, secondDivider := c.tick.secondDivider, secondsDue := c.tick.secondsDue } := by
  unfold Clock.tick; split <;> rfl

theorem tick_msDivider (c : Clock) : c.tick.msDivider = 0 := by rw [tick_form]

end Stopped

/-- Settles O10: the blocks' guards for all commands but the clock's; the tick and the second tick by their cases. -/
theorem startStopsTheBlocks : Obligations.StartStopsTheBlocks := by
  unfold Obligations.StartStopsTheBlocks
  intro s hr
  refine ⟨fun i => ?_, fun hp => ?_, fun n => ?_, fun o => ?_, ?_⟩
  · cases i
    case powerUp | mainPowerLost | resetInputActive | retainedDomainLost | startComplete => trivial
    case tick100ms fire chain =>
      refine ⟨tick fire chain s, rfl, ?_⟩
      cases hb : s.power.retained
      · rw [tick_lost hr hb]
        exact ⟨rfl, fun _ => rfl, fun h => absurd h (by decide)⟩
      · rw [tick_retained hr hb]
        refine ⟨?_, fun h => absurd h (by decide), fun _ => ⟨?_, fun h => ?_, fun h => ?_⟩⟩
        · exact congrArg (fun c => { s with clock := c }) (tick_frame s.clock)
        · exact tick_msDivider s.clock
        · rw [tick_other h]
          exact ⟨rfl, rfl⟩
        · rw [tick_tenth h]
          exact ⟨rfl, rfl⟩
    case secondTick =>
      refine ⟨secondTick s, rfl, ?_⟩
      by_cases h : s.power.retained = false ∨ s.clock.secondsDue = 0
      · have hdue : (s.clock.secondsDue - if s.power.retained = true then 1 else 0) = s.clock.secondsDue := by
          rcases h with h | h <;> simp [h]
        rw [secondTick_still hr h, hdue]
        exact ⟨rfl, fun _ => rfl, fun hb hd => absurd h (by simp [hb, hd.ne'])⟩
      · obtain ⟨hb, hd⟩ : s.power.retained = true ∧ 0 < s.clock.secondsDue := by simpa [Nat.pos_iff_ne_zero] using h
        rw [secondTick_retained hr hb hd, if_pos hb]
        refine ⟨rfl, fun h' => absurd h' h, fun _ _ => ⟨fun h0 => ?_, fun h0 hp => ?_, fun h0 hp => ?_, fun h0 hp => ?_⟩⟩
        · rw [second_settled h0]
          exact ⟨rfl, h0, rfl⟩
        · rw [second_waiting h0 hp]
          exact ⟨rfl, rfl, rfl⟩
        · rw [second_forward h0 hp]
          exact ⟨rfl, rfl, rfl⟩
        · rw [second_backward h0 hp]
          exact ⟨rfl, rfl, rfl⟩
    all_goals exact exec_stopped hr rfl
  · rw [← millisecond_stopped hr, step, hp]
  · simp [State.releaseOutput, hr]
  · simp [State.bellAsserted, hr]
  · simp [State.pullsChain, hr]

end Sys2Proof.Proofs
end

section
/-! PROOF. The receivers of the two ports (R186, R187; log entries 26, 27): what a receiver holds, and what it finds. -/

namespace Sys2Proof.Proofs

open Machine Laws

/-! ## A frame that is not whole -/

/-- What a receiver may hold: nothing, or bytes from a marker on that are fewer than their length byte, once there, asks
for (R187). -/
def Unfinished (l : List Byte) : Prop :=
  l = [] ∨ l.head? = some 165#8 ∧ ∀ n, l[5]? = some n → n.toNat ≤ 240 ∧ l.length < n.toNat + 8

theorem unfinished_init {l : List Byte} {b : Byte} (h : Unfinished (l ++ [b])) : Unfinished l := by
  rcases eq_or_ne l [] with rfl | hl
  · exact .inl rfl
  · obtain ⟨hm, hn⟩ := h.resolve_left (by simp)
    refine .inr ⟨by rwa [List.head?_append_of_ne_nil _ hl] at hm, fun n hln => ?_⟩
    have hlt := (List.getElem?_eq_some_iff.1 hln).1
    obtain ⟨hle, hlen⟩ := hn n (by rwa [List.getElem?_append_left hlt])
    rw [List.length_append] at hlen
    exact ⟨hle, by omega⟩

/-- A byte that leaves the frame unfinished is held. -/
theorem receiveByte_unfinished {l : List Byte} {b : Byte} (h : Unfinished (l ++ [b])) :
    receiveByte l b = (l ++ [b], none) := by
  obtain ⟨hm, hn⟩ := h.resolve_left (by simp)
  rcases eq_or_ne l [] with rfl | hl
  · obtain rfl : b = 165#8 := by simpa using hm
    exact receiveByte_marker
  · cases hb : (l ++ [b])[5]? with
    | none =>
      have hshort := List.getElem?_eq_none_iff.1 hb
      rw [List.length_append, List.length_singleton] at hshort
      exact receiveByte_header hl (by omega)
    | some n =>
      obtain ⟨hle, hlen⟩ := hn n hb
      rw [receiveByte_body hl hb, if_neg (by omega), if_pos hlen]

/-! ## A port -/

/-- `byte` is a port's receiver: `hold l` is the state in which it holds `l`, and `arrival` handles what it finds. -/
def Receives (byte : State → Byte → State) (hold : List Byte → State) (arrival : State → Option Frame → State) : Prop :=
  ∀ l b, byte (hold l) b =
    match (receiveByte l b).2 with
    | some f => arrival (hold (receiveByte l b).1) f
    | none => hold (receiveByte l b).1

section Port

variable {byte : State → Byte → State} {hold : List Byte → State} {arrival : State → Option Frame → State} {s : State}

/-- The bytes of an unfinished frame are held. -/
theorem Receives.holds (h : Receives byte hold arrival) (hs : hold [] = s) {l : List Byte} (hl : Unfinished l) :
    l.foldl byte s = hold l := by
  induction l using List.reverseRecOn with
  | nil => exact hs.symm
  | append_singleton l b ih =>
    rw [List.foldl_append, ih (unfinished_init hl), List.foldl_cons, List.foldl_nil, h, receiveByte_unfinished hl]

/-- The byte that ends a frame leaves the receiver between frames, with what it found. -/
theorem Receives.ends (h : Receives byte hold arrival) (hs : hold [] = s) {l : List Byte} {b : Byte} {f : Option Frame}
    (hl : Unfinished l) (hb : receiveByte l b = ([], some f)) : (l ++ [b]).foldl byte s = arrival s f := by
  rw [List.foldl_append, h.holds hs hl, List.foldl_cons, List.foldl_nil, h, hb, hs]

/-- Bytes before a marker are passed over. -/
theorem Receives.skips (h : Receives byte hold arrival) (hs : hold [] = s) {l : List Byte} (hl : 165#8 ∉ l) :
    l.foldl byte s = s := by
  induction l with
  | nil => rfl
  | cons b l ih =>
    obtain ⟨hb, hl⟩ := List.ne_and_not_mem_of_not_mem_cons hl
    have hskip : byte s b = s := by rw [← hs, h, receiveByte_skip hb.symm]
    rw [List.foldl_cons, hskip]
    exact ih hl

/-- A length above 240 ends the frame as a bad one (R187). -/
theorem Receives.badLength (h : Receives byte hold arrival) (hs : hold [] = s) {a k t d l : Byte} (hl : 240 < l.toNat) :
    [165#8, a, k, t, d, l].foldl byte s = arrival s none := by
  refine h.ends hs (l := [165#8, a, k, t, d]) (.inr ⟨rfl, fun n hn => by simp at hn⟩) ?_
  rw [receiveByte_body (by simp) rfl, if_pos hl]

end Port

/-! ## A frame by R186 -/

/-- The bytes that a frame's CRC covers: from the marker to the payload's end (R186). -/
def coveredBytes (address kind tag digest : Byte) (payload : List Byte) : List Byte :=
  [165#8, address, kind, tag, digest, BitVec.ofNat 8 payload.length] ++ payload

section Layout

variable {address kind tag digest c1 c2 : Byte} {payload : List Byte}

@[simp] theorem coveredBytes_length :
    (coveredBytes address kind tag digest payload).length = payload.length + 6 := by
  simp [coveredBytes]

theorem lengthByte_toNat (hp : payload.length ≤ 240) : (BitVec.ofNat 8 payload.length).toNat = payload.length := by
  rw [BitVec.toNat_ofNat]
  omega

/-- A whole frame less its last byte, or less still, is unfinished. -/
theorem unfinished_take (hp : payload.length ≤ 240) {n : Nat} (hn : n < payload.length + 8) :
    Unfinished ((coveredBytes address kind tag digest payload ++ [c1, c2]).take n) := by
  cases n with
  | zero => exact .inl rfl
  | succ n =>
    refine .inr ⟨rfl, fun l hl => ?_⟩
    rw [List.getElem?_take] at hl
    split at hl
    · obtain rfl : BitVec.ofNat 8 payload.length = l := Option.some.inj hl
      rw [lengthByte_toNat hp, List.length_take]
      omega
    · cases hl

/-- At its last byte the frame ends, and is what `frameOf` finds (R187). -/
theorem receiveByte_last (hp : payload.length ≤ 240) :
    receiveByte (coveredBytes address kind tag digest payload ++ [c1]) c2 =
      ([], some (frameOf (coveredBytes address kind tag digest payload ++ [c1, c2]))) := by
  rw [receiveByte_body (l := BitVec.ofNat 8 payload.length) (by simp) rfl, lengthByte_toNat hp, if_neg (by omega),
    if_neg (by simp), List.append_assoc]
  rfl

/-- The length byte cuts what follows it into payload and CRC (R186). -/
theorem frameOf_cons (m a k t d l : Byte) (body : List Byte) : frameOf (m :: a :: k :: t :: d :: l :: body) =
    if crc16Bytes (m :: a :: k :: t :: d :: l :: body.take l.toNat) = body.drop l.toNat then
      some ⟨a, k, t, body.take l.toNat, m :: a :: k :: t :: d :: l :: body⟩
    else none := rfl

/-- A frame whose two last bytes are its CRC is read as its fields; any other is bad (R187). -/
theorem frameOf_covered (hp : payload.length ≤ 240) :
    frameOf (coveredBytes address kind tag digest payload ++ [c1, c2]) =
      if crc16Bytes (coveredBytes address kind tag digest payload) = [c1, c2] then
        some ⟨address, kind, tag, payload, coveredBytes address kind tag digest payload ++ [c1, c2]⟩
      else none := by
  have h := frameOf_cons 165#8 address kind tag digest (BitVec.ofNat 8 payload.length) (payload ++ [c1, c2])
  rw [lengthByte_toNat hp, List.take_left, List.drop_left] at h
  exact h

/-- A whole frame is handled as what it is read as. -/
theorem Receives.frame {byte : State → Byte → State} {hold : List Byte → State} {arrival : State → Option Frame → State}
    {s : State} (h : Receives byte hold arrival) (hs : hold [] = s) (hp : payload.length ≤ 240) :
    (coveredBytes address kind tag digest payload ++ [c1, c2]).foldl byte s =
      arrival s (frameOf (coveredBytes address kind tag digest payload ++ [c1, c2])) := by
  have hinit : Unfinished (coveredBytes address kind tag digest payload ++ [c1]) := by
    have htake := unfinished_take (address := address) (kind := kind) (tag := tag) (digest := digest) (c1 := c1) (c2 := c2)
      hp (n := payload.length + 7) (by omega)
    rwa [List.take_append, List.take_of_length_le (by simp), coveredBytes_length,
      show payload.length + 7 - (payload.length + 6) = 1 by omega] at htake
  have hends := h.ends hs hinit (receiveByte_last (c2 := c2) hp)
  rwa [List.append_assoc] at hends

end Layout

/-! ## The two ports -/

section Ports

variable {s : State}

/-- The state in which the upward port's receiver holds `l`. -/
def holdUp (s : State) (l : List Byte) : State := { s with link := { s.link with upPartial := l } }

/-- The state in which the downward port's receiver holds `l`. -/
def holdDown (s : State) (l : List Byte) : State := { s with link := { s.link with downPartial := l } }

theorem holdUp_nil (h : s.link.upPartial = []) : holdUp s [] = s := by rw [holdUp, ← h]

theorem holdDown_nil (h : s.link.downPartial = []) : holdDown s [] = s := by rw [holdDown, ← h]

theorem receives_downward (s : State) : Receives downwardByte (holdUp s) downwardArrival := fun _ _ => rfl

theorem receives_upward (s : State) : Receives upwardByte (holdDown s) upwardArrival := fun _ _ => rfl

theorem exec_downwardFrameReceived (hr : s.running = true) (l : List Byte) :
    exec (.downwardFrameReceived l) s = .next (l.foldl downwardByte s) := congrArg Host.Outcome.next (if_pos hr)

theorem exec_upwardFrameReceived (hr : s.running = true) (l : List Byte) :
    exec (.upwardFrameReceived l) s = .next (l.foldl upwardByte s) := congrArg Host.Outcome.next (if_pos hr)

/-- Bytes without a marker are passed over between frames, and lost during a start. -/
theorem downwardReceived_skips (hh : s.link.upPartial = []) {l : List Byte} (hm : 165#8 ∉ l) :
    downwardReceived l s = s := by
  unfold downwardReceived
  split
  · exact (receives_downward s).skips (holdUp_nil hh) hm
  · rfl

theorem upwardReceived_skips (hh : s.link.downPartial = []) {l : List Byte} (hm : 165#8 ∉ l) :
    upwardReceived l s = s := by
  unfold upwardReceived
  split
  · exact (receives_upward s).skips (holdDown_nil hh) hm
  · rfl

/-- Bytes that arrive in two commands act as when they arrive in one (log entry 26). -/
theorem downwardReceived_append (l m : List Byte) (s : State) :
    downwardReceived (l ++ m) s = downwardReceived m (downwardReceived l s) := by
  obtain ⟨link, hl⟩ := downwardReceived_form (s := s) l
  have hrun : (downwardReceived l s).running = s.running := by rw [hl]; rfl
  cases hr : s.running
  · simp [downwardReceived, hr]
  · rw [downwardReceived, if_pos hr, downwardByte_append, downwardReceived, hrun, if_pos hr, downwardReceived, if_pos hr]

theorem upwardReceived_append (l m : List Byte) (s : State) :
    upwardReceived (l ++ m) s = upwardReceived m (upwardReceived l s) := by
  obtain ⟨link, hl⟩ := upwardReceived_form (s := s) l
  have hrun : (upwardReceived l s).running = s.running := by rw [hl]; rfl
  cases hr : s.running
  · simp [upwardReceived, hr]
  · rw [upwardReceived, if_pos hr, upwardByte_append, upwardReceived, hrun, if_pos hr, upwardReceived, if_pos hr]

end Ports

end Sys2Proof.Proofs
end

section
/-! PROOF. Where the two ports' frames go (R186, R187, R189 to R191; log entries 26, 27). -/

namespace Sys2Proof.Proofs

open Machine Laws

/-! ## The buffers (R189 to R191) -/

section Buffers

variable {s : State}

theorem forwardDown_stored (raw : List Byte) (h : s.link.downForward.length < 2) :
    forwardDown raw s = { s with link := { s.link with downForward := s.link.downForward ++ [raw] } } := if_pos h

theorem forwardDown_dropped (raw : List Byte) (h : 2 ≤ s.link.downForward.length) :
    forwardDown raw s = { s with link := { s.link with forwardDrops := min (s.link.forwardDrops + 1) 65535 } } :=
  if_neg h.not_gt

theorem forwardUp_stored (raw : List Byte) (h : s.link.upForward.length < 2) :
    forwardUp raw s = { s with link := { s.link with upForward := s.link.upForward ++ [raw] } } := if_pos h

theorem forwardUp_dropped (raw : List Byte) (h : 2 ≤ s.link.upForward.length) :
    forwardUp raw s = { s with link := { s.link with forwardDrops := min (s.link.forwardDrops + 1) 65535 } } :=
  if_neg h.not_gt

theorem offerRequest_stored (r : Request) (h : s.link.requests.length < 2) :
    offerRequest r s = { s with link := { s.link with requests := s.link.requests ++ [r] } } := if_pos h

theorem offerRequest_dropped (r : Request) (h : 2 ≤ s.link.requests.length) :
    offerRequest r s = { s with link := { s.link with requestDrops := min (s.link.requestDrops + 1) 65535 } } :=
  if_neg h.not_gt

end Buffers

/-! ## What a port found (R187, R189, R190) -/

section Arrivals

variable {s : State} {f : Frame}

/-- The upward bit is the top bit of the address byte (R186). -/
theorem upward_eq (f : Frame) : f.upward = decide (128 ≤ f.address.toNat) :=
  (BitVec.msb_eq_getLsbD_last f.address).symm.trans (BitVec.msb_eq_decide f.address)

theorem broadcastKind_iff (k : Byte) : broadcastKind k = true ↔ k = 16#8 ∨ k = 17#8 ∨ k = 96#8 ∨ k = 112#8 := by
  simp [broadcastKind, or_assoc]

theorem downwardArrival_upward (h : 128 ≤ f.address.toNat) : downwardArrival s (some f) = frameError s :=
  if_pos (by simpa [upward_eq] using h)

theorem downwardArrival_good (h : f.address.toNat < 128) : downwardArrival s (some f) = goodDownward f s :=
  if_neg (by simpa [upward_eq] using h)

theorem upwardArrival_good (h : 128 ≤ f.address.toNat) : upwardArrival s (some f) = forwardUp f.raw s :=
  if_pos (by simpa [upward_eq] using h)

theorem upwardArrival_downward (h : f.address.toNat < 128) : upwardArrival s (some f) = frameError s :=
  if_neg (by simpa [upward_eq] using h)

theorem goodDownward_own (h : f.address.toNat % 32 = s.link.address) :
    goodDownward f s = offerRequest ⟨false, f.kind, f.tag, f.payload⟩ s := if_pos h

theorem goodDownward_all (h : f.address.toNat % 32 ≠ s.link.address) (h31 : f.address.toNat % 32 = 31) :
    goodDownward f s =
      if f.kind = 16#8 ∨ f.kind = 17#8 ∨ f.kind = 96#8 ∨ f.kind = 112#8 then
        offerRequest ⟨true, f.kind, f.tag, f.payload⟩ (forwardDown f.raw s)
      else forwardDown f.raw s := by
  refine (if_neg h).trans ((if_pos h31).trans ?_)
  simp only [broadcastKind_iff]

theorem goodDownward_other (h : f.address.toNat % 32 ≠ s.link.address) (h31 : f.address.toNat % 32 ≠ 31) :
    goodDownward f s = forwardDown f.raw s := (if_neg h).trans (if_neg h31)

end Arrivals

/-! ## A frame that arrives whole -/

section Arrived

variable {s : State} {address kind tag digest c1 c2 : Byte} {payload : List Byte}

theorem frameOf_good (hp : payload.length ≤ 240) :
    frameOf (coveredBytes address kind tag digest payload ++ crc16Bytes (coveredBytes address kind tag digest payload)) =
      some ⟨address, kind, tag, payload,
        coveredBytes address kind tag digest payload ++ crc16Bytes (coveredBytes address kind tag digest payload)⟩ :=
  (frameOf_covered hp).trans (if_pos rfl)

theorem frameOf_bad (hp : payload.length ≤ 240) (hc : [c1, c2] ≠ crc16Bytes (coveredBytes address kind tag digest payload)) :
    frameOf (coveredBytes address kind tag digest payload ++ [c1, c2]) = none :=
  (frameOf_covered hp).trans (if_neg hc.symm)

theorem exec_downward_frame (hr : s.running = true) (hh : s.link.upPartial = []) (hp : payload.length ≤ 240) :
    exec (.downwardFrameReceived (coveredBytes address kind tag digest payload ++ [c1, c2])) s =
      .next (downwardArrival s (frameOf (coveredBytes address kind tag digest payload ++ [c1, c2]))) :=
  (exec_downwardFrameReceived hr _).trans
    (congrArg Host.Outcome.next ((receives_downward s).frame (holdUp_nil hh) hp))

theorem exec_upward_frame (hr : s.running = true) (hh : s.link.downPartial = []) (hp : payload.length ≤ 240) :
    exec (.upwardFrameReceived (coveredBytes address kind tag digest payload ++ [c1, c2])) s =
      .next (upwardArrival s (frameOf (coveredBytes address kind tag digest payload ++ [c1, c2]))) :=
  (exec_upwardFrameReceived hr _).trans
    (congrArg Host.Outcome.next ((receives_upward s).frame (holdDown_nil hh) hp))

/-- A frame with its CRC, on the upward port. -/
theorem exec_downward_good (hr : s.running = true) (hh : s.link.upPartial = []) (hp : payload.length ≤ 240)
    {raw : List Byte} (hraw : raw = coveredBytes address kind tag digest payload
      ++ crc16Bytes (coveredBytes address kind tag digest payload)) :
    exec (.downwardFrameReceived raw) s = .next (downwardArrival s (some ⟨address, kind, tag, payload, raw⟩)) := by
  subst hraw
  rw [← frameOf_good hp]
  exact exec_downward_frame hr hh hp

/-- A frame with its CRC, on the downward port. -/
theorem exec_upward_good (hr : s.running = true) (hh : s.link.downPartial = []) (hp : payload.length ≤ 240)
    {raw : List Byte} (hraw : raw = coveredBytes address kind tag digest payload
      ++ crc16Bytes (coveredBytes address kind tag digest payload)) :
    exec (.upwardFrameReceived raw) s = .next (upwardArrival s (some ⟨address, kind, tag, payload, raw⟩)) := by
  subst hraw
  rw [← frameOf_good hp]
  exact exec_upward_frame hr hh hp

/-- The first bytes of a frame are held (log entry 26). -/
theorem exec_downward_part (hr : s.running = true) (hh : s.link.upPartial = []) {l : List Byte} (hl : Unfinished l) :
    exec (.downwardFrameReceived l) s = .next (holdUp s l) :=
  (exec_downwardFrameReceived hr l).trans
    (congrArg Host.Outcome.next ((receives_downward s).holds (holdUp_nil hh) hl))

theorem exec_upward_part (hr : s.running = true) (hh : s.link.downPartial = []) {l : List Byte} (hl : Unfinished l) :
    exec (.upwardFrameReceived l) s = .next (holdDown s l) :=
  (exec_upwardFrameReceived hr l).trans
    (congrArg Host.Outcome.next ((receives_upward s).holds (holdDown_nil hh) hl))

end Arrived

/-- Settles O23: whole frames by what the receiver finds in them, then bad lengths, parts of frames, and the buffers. -/
theorem framesAreRouted : Obligations.FramesAreRouted := by
  unfold Obligations.FramesAreRouted
  refine ⟨fun address kind tag digest payload s hp hr hh covered hc => ?_,
    fun address kind tag digest payload s hp hr hh covered hc => ?_,
    fun address kind tag digest length s hl hr => ⟨fun hh => ?_, fun hh => ?_⟩,
    fun bytes more s => ⟨fun hm hh => ?_, fun hm hh => ?_, fun t ht => ?_, fun t ht => ?_⟩,
    fun raw s => ⟨forwardDown_stored raw, forwardDown_dropped raw⟩,
    fun r s => ⟨offerRequest_stored r, offerRequest_dropped r⟩⟩
  · obtain rfl : covered = coveredBytes address kind tag digest payload := hc
    have hgood := exec_downward_good hr hh hp (address := address) (kind := kind) (tag := tag) (digest := digest) rfl
    refine ⟨fun ha hown => ?_, fun ha hown h31 => ?_, fun ha hown h31 => ?_, fun ha => ?_, fun c1 c2 hcrc => ?_,
      fun n hn => exec_downward_part hr hh (unfinished_take hp hn)⟩
    · rw [hgood, downwardArrival_good ha, goodDownward_own hown]
    · rw [hgood, downwardArrival_good ha, goodDownward_all hown h31]
    · rw [hgood, downwardArrival_good ha, goodDownward_other hown h31]
    · rw [hgood, downwardArrival_upward ha]
      rfl
    · rw [exec_downward_frame hr hh hp, frameOf_bad hp hcrc]
      rfl
  · obtain rfl : covered = coveredBytes address kind tag digest payload := hc
    have hgood := exec_upward_good hr hh hp (address := address) (kind := kind) (tag := tag) (digest := digest) rfl
    refine ⟨fun ha hroom => ?_, fun ha hfull => ?_, fun ha => ?_, fun c1 c2 hcrc => ?_,
      fun n hn => exec_upward_part hr hh (unfinished_take hp hn)⟩
    · rw [hgood, upwardArrival_good ha, forwardUp_stored _ hroom]
    · rw [hgood, upwardArrival_good ha, forwardUp_dropped _ hfull]
    · rw [hgood, upwardArrival_downward ha]
      rfl
    · rw [exec_upward_frame hr hh hp, frameOf_bad hp hcrc]
      rfl
  · rw [exec_downwardFrameReceived hr, (receives_downward s).badLength (holdUp_nil hh) hl]
    rfl
  · rw [exec_upwardFrameReceived hr, (receives_upward s).badLength (holdDown_nil hh) hl]
    rfl
  · exact congrArg Host.Outcome.next (downwardReceived_skips hh hm)
  · exact congrArg Host.Outcome.next (upwardReceived_skips hh hm)
  · rw [eq_effect ht]
    exact congrArg Host.Outcome.next (downwardReceived_append bytes more s)
  · rw [eq_effect ht]
    exact congrArg Host.Outcome.next (upwardReceived_append bytes more s)

end Sys2Proof.Proofs
end

section
/-! PROOF. The queue of commands (log entry 1): a step takes the front command off and runs it whole. -/

namespace Sys2Proof.Proofs

open Machine

/-- Settles O1: the queue is known to have a front, so the step is its second case. -/
theorem stepRunsFront : Obligations.StepRunsFront := by
  unfold Obligations.StepRunsFront
  intro c rest s hfront
  unfold step
  rw [hfront]

end Sys2Proof.Proofs
end
